-- ==== Sys2Proof/Word.lean ====
section
/-! DEFINITION. The words of the block: bytes, 16-bit words, 64-bit frames and slots, 72-bit command words. -/

namespace Sys2Proof

/-- One byte of a frame or of a string (R20, R66). -/
abbrev Byte := BitVec 8

/-- One of the words A, B, C of a frame (R43, R63). -/
abbrev Halfword := BitVec 16

/-- A frame, and the content of one slot: 8 bytes as 64 bits (R20, R63). -/
abbrev Frame := BitVec 64

/-- The DATA field of a response (R64). -/
abbrev Data := BitVec 64

/-- A command word, CMDBITS = 72 (R8, R60). -/
abbrev CmdWord := BitVec 72

/-- A byte string: a table entry of the catalog, or the `str` of a response (R29, R66). -/
abbrev ByteString := List Byte

end Sys2Proof
end

