-- ==== Sys2Proof/Syntax.lean ====
section
/-! DEFINITION. The 11 commands of LGD-CMD version 1 (R61), one constructor per row of the opcode table. -/

namespace Sys2Proof

/-- A command. INGEST carries its frame; the other ten carry the identifier, "the unsigned integer `id`" of R62. -/
inductive Instr where
  /-- INGEST (R80). -/
  | ingest (frame : Frame)
  /-- DECODE (R90). -/
  | decode (id : Nat)
  /-- LIMITFLAG (R110). -/
  | limitFlag (id : Nat)
  /-- FEATSTAT (R113). -/
  | featStat (id : Nat)
  /-- PNAME (R125). -/
  | pName (id : Nat)
  /-- PUNIT (R126). -/
  | pUnit (id : Nat)
  /-- PDEC (R127). -/
  | pDec (id : Nat)
  /-- PMIN (R128). -/
  | pMin (id : Nat)
  /-- PMAX (R129). -/
  | pMax (id : Nat)
  /-- LFNAME (R130). -/
  | lfName (id : Nat)
  /-- FAULTDESC (R131). -/
  | faultDesc (id : Nat)
  deriving DecidableEq, Repr

end Sys2Proof
end

