-- ==== Sys2Proof/WellFormed.lean ====
section
/-! DEFINITION. Which commands a 72-bit word can carry: the identifier field has IDBITS = 16 bits (R8, R60). -/

namespace Sys2Proof

/-- The identifier of a format-I command, and nothing for INGEST (R60). -/
def Instr.ident? : Instr → Option Nat
  | .ingest _ => none
  | .decode id => some id
  | .limitFlag id => some id
  | .featStat id => some id
  | .pName id => some id
  | .pUnit id => some id
  | .pDec id => some id
  | .pMin id => some id
  | .pMax id => some id
  | .lfName id => some id
  | .faultDesc id => some id

/-- An identifier is "a value 0 to 65535" (R60). A frame is any 64 bits (R82). -/
def Instr.wellFormed (i : Instr) : Bool :=
  match i.ident? with
  | none => true
  | some id => decide (id < 2 ^ 16)

end Sys2Proof
end

