-- ==== Sys2Proof/Decode.lean ====
section
/-! DEFINITION. The command decoder, total on every 72-bit word (R67, R71), and the encoder (R60, R61). -/

namespace Sys2Proof

/-- Why a word is no command: the two clauses of R67. -/
inductive IllegalWord where
  /-- R67 (a): `OP` is 0x00 or is 0x0C to 0xFF. -/
  | opcode
  /-- R67 (b): `OP` is 0x02 to 0x0B and `cmd[63:16]` is not all zero. -/
  | reservedBits
  deriving DecidableEq, Repr

/-- `OP = cmd[71:64]` (R60). -/
def CmdWord.opcode (w : CmdWord) : BitVec 8 := w.extractLsb' 64 8

/-- `ARG = cmd[63:0]`, the whole of which is the frame in format F (R60). -/
def CmdWord.arg (w : CmdWord) : Frame := w.extractLsb' 0 64

/-- `cmd[63:16]`, which must be zero in format I (R60). -/
def CmdWord.reserved (w : CmdWord) : BitVec 48 := w.extractLsb' 16 48

/-- `id = uint(cmd[15:0])` (R60, R62). -/
def CmdWord.ident (w : CmdWord) : Nat := (w.extractLsb' 0 16).toNat

/-- A format-I command, illegal when a reserved bit is set (R67 (b)). -/
def decodeFormatI (w : CmdWord) (mk : Nat → Instr) : Except IllegalWord Instr :=
  if CmdWord.reserved w = 0 then .ok (mk (CmdWord.ident w)) else .error .reservedBits

/-- The command a word carries, or why it is illegal (R61, R67, R71). It depends on the word alone. -/
def decode (w : CmdWord) : Except IllegalWord Instr :=
  match (CmdWord.opcode w).toNat with
  | 0x01 => .ok (.ingest (CmdWord.arg w))
  | 0x02 => decodeFormatI w .decode
  | 0x03 => decodeFormatI w .limitFlag
  | 0x04 => decodeFormatI w .featStat
  | 0x05 => decodeFormatI w .pName
  | 0x06 => decodeFormatI w .pUnit
  | 0x07 => decodeFormatI w .pDec
  | 0x08 => decodeFormatI w .pMin
  | 0x09 => decodeFormatI w .pMax
  | 0x0A => decodeFormatI w .lfName
  | 0x0B => decodeFormatI w .faultDesc
  | _ => .error .opcode

/-- Format F: the opcode above the frame (R60). -/
def encodeFormatF (op : BitVec 8) (f : Frame) : CmdWord := op ++ f

/-- Format I: the opcode, 48 zero bits, the identifier (R60). -/
def encodeFormatI (op : BitVec 8) (id : Nat) : CmdWord := op ++ (0#48 ++ BitVec.ofNat 16 id)

/-- The word of a well-formed command, from the opcode map of R61. -/
def encode : Instr → CmdWord
  | .ingest f => encodeFormatF 0x01#8 f
  | .decode id => encodeFormatI 0x02#8 id
  | .limitFlag id => encodeFormatI 0x03#8 id
  | .featStat id => encodeFormatI 0x04#8 id
  | .pName id => encodeFormatI 0x05#8 id
  | .pUnit id => encodeFormatI 0x06#8 id
  | .pDec id => encodeFormatI 0x07#8 id
  | .pMin id => encodeFormatI 0x08#8 id
  | .pMax id => encodeFormatI 0x09#8 id
  | .lfName id => encodeFormatI 0x0A#8 id
  | .faultDesc id => encodeFormatI 0x0B#8 id

/-- The command word whose bits, numbered as the opcode table numbers them, are the low `nbits` bits of `w`. A
command is one 72-bit word, so the table's numbering is the word's own. -/
def tableWord (nbits w : Nat) : CmdWord := BitVec.ofNat 72 (w % 2 ^ nbits)

/-- What the decoder reads from a word given in the opcode table's numbering. -/
def decodeTableWord (nbits w : Nat) : Option Instr := (decode (tableWord nbits w)).toOption

end Sys2Proof
end

