-- ==== Sys2Proof/Config.lean ====
section
/-! DEFINITION. The parameters of the block: the fixed counts (R7, R8) and the open tables (R9) as one record of plain data. -/

namespace Sys2Proof

/-- Number of frame slots (R7). -/
@[simp] abbrev NSLOT : Nat := 14
/-- Bytes per slot and per frame (R7). -/
@[simp] abbrev SLOTBYTES : Nat := 8
/-- Number of parameters (R7). -/
@[simp] abbrev NPARAM : Nat := 41
/-- Number of limit flags (R7). -/
@[simp] abbrev NFLAG : Nat := 16
/-- Number of feature statuses (R7). -/
@[simp] abbrev NSTATUS : Nat := 4
/-- Number of fault codes (R7). -/
@[simp] abbrev NFAULT : Nat := 124
/-- A DECODE result is the value times QSCALE (R8, R12). -/
@[simp] abbrev QSCALE : Int := 1000

/-- One entry of `DESC` (R23). The fields are plain integers, so that an entry outside R23's ranges can be written
and is found ill-formed (R24, U6). -/
structure DescEntry where
  /-- SLOT, the slot the parameter lives in: 0 to 13. -/
  slot : Nat
  /-- OFF, the byte offset of the low byte of its word: 2, 4 or 6. -/
  off : Nat
  /-- SIGNED: the word is read as a two's-complement integer. -/
  signed : Bool
  /-- PRE, the bias added to the raw integer before scaling. -/
  pre : Int
  /-- MUL, the multiplier of the scale. -/
  mul : Int
  /-- DIV, the divisor of the scale: 1 to 32767. -/
  div : Int
  /-- POST, the bias added after scaling, in whole units. -/
  post : Int
  deriving DecidableEq, Repr

/-- One entry of `META` (R29). The spec takes the three numbers as signed 32-bit integers (D20). -/
structure MetaEntry where
  /-- NAME, at most 23 characters (log 18). -/
  name : ByteString
  /-- UNIT, at most 7 characters (log 18). -/
  unit : ByteString
  /-- DECIMALS -/
  decimals : BitVec 32
  /-- MIN, in whole display units (R128). -/
  min : BitVec 32
  /-- MAX, in whole display units (R129). -/
  max : BitVec 32
  deriving DecidableEq, Repr

/-- The open parameters of R9. Each table has its length in its type. -/
structure Config where
  /-- `DESC`, indexed by the parameter identifier (R23). -/
  desc : Vector DescEntry NPARAM
  /-- P_LIMITS, the "limit flags" parameter (R27). -/
  pLimits : Nat
  /-- P_STATUS, the "status" parameter (R27). -/
  pStatus : Nat
  /-- P_TRIG1ERR (R26). -/
  pTrig1Err : Nat
  /-- P_FAULT (R26). -/
  pFault : Nat
  /-- P_FUELPRESS (R26). -/
  pFuelPress : Nat
  /-- P_COOLANT (R26). -/
  pCoolant : Nat
  /-- `META` (R29). -/
  metaTable : Vector MetaEntry NPARAM
  /-- `LFNAME_ROM` (R30). -/
  lfNameRom : Vector ByteString NFLAG
  /-- `FAULT_ROM` (R31). -/
  faultRom : Vector ByteString NFAULT
  deriving DecidableEq, Repr

/-- The identity-scaled signed entry of a word position (R27). -/
def DescEntry.identity (slot off : Nat) : DescEntry :=
  { slot := slot, off := off, signed := true, pre := 0, mul := 1, div := 1, post := 0 }

/-- The configuration `State.reset` carries. DESIGN CHOICE (log 2, unsafe): the spec gives no table. It holds the
entries R26 pins, at identifiers the model chose, an identity-scaled word of slot 0 everywhere else, and empty
catalog tables. No statement rests on it: every statement about a command holds for every configuration. -/
def Config.placeholder : Config :=
  { desc := #v[DescEntry.identity 7 2, DescEntry.identity 7 4, DescEntry.identity 7 6,
        { DescEntry.identity 0 2 with post := -50 }, DescEntry.identity 0 4, DescEntry.identity 0 6]
      ++ Vector.replicate 35 (DescEntry.identity 0 2)
    pTrig1Err := 0, pFault := 1, pFuelPress := 2, pCoolant := 3, pLimits := 4, pStatus := 5
    metaTable := Vector.replicate NPARAM { name := [], unit := [], decimals := 0, min := 0, max := 0 }
    lfNameRom := Vector.replicate NFLAG []
    faultRom := Vector.replicate NFAULT [] }

end Sys2Proof
end

