-- ==== Sys2Proof/Machine/ConfigCheck.lean ====
section
/-! DEFINITION. Well-formedness of a configuration: R24, W1 to W6, and the further checks of R25, R29 and R97. -/

namespace Sys2Proof

/-- An integer of the range -32768 to 32767 (R23, W4). -/
def int16Range (n : Int) : Bool := decide (-32768 ≤ n) && decide (n ≤ 32767)

/-- W1 to W4 of R24, for one entry. -/
def DescEntry.wellFormed (d : DescEntry) : Bool :=
  decide (d.slot < NSLOT) && (d.off == 2 || d.off == 4 || d.off == 6)
    && decide (1 ≤ d.div) && decide (d.div ≤ 32767)
    && int16Range d.pre && int16Range d.mul && int16Range d.post

/-- Identity-scaled: `PRE = 0, MUL = 1, DIV = 1, POST = 0` (R27). -/
def DescEntry.identityScaled (d : DescEntry) : Bool := d.pre == 0 && d.mul == 1 && d.div == 1 && d.post == 0

/-- The slot-7 entry R26 pins at a word offset: signed and identity-scaled. For P_TRIG1ERR and P_FAULT the scale is the
spec's own inference (R26, D10; log 11). -/
def DescEntry.slot7At (off : Nat) (d : DescEntry) : Bool :=
  d.slot == 7 && d.off == off && d.signed && d.identityScaled

/-- The coolant entry of R26: `MUL = 1, DIV = 1` and `PRE + POST = -50`, signed. DEDUCED (log 8): R26 states the sum
and says the spec writes it as `PRE = 0, POST = -50`; both spellings are accepted. -/
def DescEntry.coolant (d : DescEntry) : Bool := d.signed && d.mul == 1 && d.div == 1 && d.pre + d.post == -50

/-- `p` is a valid parameter identifier and its entry passes a check. -/
def Config.entryIs (c : Config) (p : Nat) (check : DescEntry → Bool) : Bool :=
  match c.desc[p]? with
  | some d => check d
  | none => false

/-- R24: W1 to W4 of every entry, W5 (the two bit-field parameters), W6 (the pinned entries of R26). -/
def Config.wellFormed (c : Config) : Bool :=
  c.desc.toList.all DescEntry.wellFormed
    && (c.pLimits != c.pStatus && c.entryIs c.pLimits DescEntry.identityScaled
      && c.entryIs c.pStatus DescEntry.identityScaled)
    && (c.entryIs c.pTrig1Err (DescEntry.slot7At 2) && c.entryIs c.pFault (DescEntry.slot7At 4)
      && c.entryIs c.pFuelPress (DescEntry.slot7At 6) && c.entryIs c.pCoolant DescEntry.coolant)

/-- An exact entry: `DIV` divides `1000 * MUL` (R97). -/
def DescEntry.exact (d : DescEntry) : Bool := (QSCALE * d.mul) % d.div == 0

/-- An exact configuration (R97). The machine does not ask for it. -/
def Config.exact (c : Config) : Bool := c.desc.toList.all DescEntry.exact

/-- The string bounds of R29. R24 does not count them into well-formedness and the machine does not ask for them
(log 9). R29 bounds CHARACTERS and the encoding of the strings is not given (N5 of 91_not_in_source.md): this check
counts one byte as one character. DESIGN CHOICE (log 18). -/
def Config.catalogBounded (c : Config) : Bool :=
  c.metaTable.toList.all fun m => decide (m.name.length ≤ 23) && decide (m.unit.length ≤ 7)

/-! ### What the document says of the table's contents (R25)

R25 records it "so that a configuration can be checked against it". It is no part of well-formedness and the machine
does not ask for it. -/

/-- The scales the document lists, as the (MUL, DIV) pairs of R25. "include" means the list may not be complete. -/
def documentScales : List (Int × Int) := [(1, 10), (1, 100), (1, 1000), (5, 1), (-1, 10), (1, 1)]

/-- The biases the document lists: -50 (temperatures) and -100 (gauge pressure, ignition timing baseline) (R25). -/
def documentBiases : List Int := [-50, -100]

/-- The entry has this scale, as R25 spells it. -/
def DescEntry.hasScale (d : DescEntry) (scale : Int × Int) : Bool := d.mul == scale.1 && d.div == scale.2

/-- The entry has the bias `k`: as `k` raw counts before the scale, or as `k` scaled units, which is
`PRE * MUL / DIV + POST = k`. Both are accepted, because the document does not say which it means (R25, N7).
DESIGN CHOICE (log 19). -/
def DescEntry.hasBias (d : DescEntry) (k : Int) : Bool :=
  (d.pre == k && d.post == 0) || d.pre * d.mul + d.post * d.div == k * d.div

/-- Every entry is signed, the default of R25's last bullet (D11). -/
def Config.allSigned (c : Config) : Bool := c.desc.toList.all DescEntry.signed

/-- Each scale the document lists is seen in the table. -/
def Config.scalesSeen (c : Config) : Bool := documentScales.all fun r => c.desc.toList.any fun d => d.hasScale r

/-- Each bias the document lists is seen in the table. -/
def Config.biasesSeen (c : Config) : Bool := documentBiases.all fun k => c.desc.toList.any fun d => d.hasBias k

/-- No entry has a scale beyond the listed ones. -/
def Config.scalesListed (c : Config) : Bool := c.desc.toList.all fun d => documentScales.any d.hasScale

/-- No entry has a bias beyond none at all and the listed ones. -/
def Config.biasesListed (c : Config) : Bool := c.desc.toList.all fun d => (0 :: documentBiases).any d.hasBias

/-- The check of a configuration against R25: signed entries, every listed scale and bias seen, and no other scale or
bias. The last two parts ask for more than the document says, whose lists may not be complete (log 19). -/
def Config.asTheDocumentDescribes (c : Config) : Bool :=
  c.allSigned && c.scalesSeen && c.biasesSeen && c.scalesListed && c.biasesListed

end Sys2Proof
end

