-- ==== Sys2Proof/Machine/State.lean ====
section
/-! DEFINITION. The state: the frame register file (R20), the configuration it is run with (R9), and the two ends of
the command port (R10, R64). All of it is plain data. -/

namespace Sys2Proof.Machine

/-- `FS`, 14 registers of 64 bits (R20). -/
abbrev FrameFile := Vector Frame NSLOT

/-- The four status codes (R65). No other code is ever produced. -/
inductive Status where
  /-- 0x00: the command did what it is for. -/
  | ok
  /-- 0x01: INGEST only, the frame is malformed. -/
  | reject
  /-- 0x02: the identifier is outside the command's range. -/
  | noResult
  /-- 0x03: the word is not a command. -/
  | illegal
  deriving DecidableEq, Repr

/-- What the block answers: STATUS and DATA (R64), and the byte string beside them (R66). -/
structure Response where
  status : Status
  data : Data
  str : ByteString
  deriving DecidableEq, Repr

/-- What the host does to the block: it issues a command word (R60), or it applies reset between two commands
(R161, D17). -/
inductive HostEvent where
  | command (w : CmdWord)
  | reset
  deriving DecidableEq, Repr

/-- The state of the block and of its command port. `fs` is the spec's only mutable state (R33 to R36). `cfg` is
constant (R32). `host` and `responses` are the model's own fields (logs 3 and 4); no command reads them (R36). -/
structure State where
  /-- `FS`, the frame register file. -/
  fs : FrameFile
  /-- The open parameters of R9, the same before and after every step (R32). -/
  cfg : Config
  /-- What the host has still to issue, the next event first (R10). -/
  host : List HostEvent
  /-- The responses given so far, the newest first (R10, R64). -/
  responses : List Response
  deriving DecidableEq, Repr

/-- Nothing faults: "the block raises no exception" (R13), and there is no trap (R146, R147). A failure is a
response (R140). So no step ends in a fault, and the type has no constructor (log 15). -/
inductive Fault where
  deriving DecidableEq, Repr

/-- Why a step is refused. -/
inductive Refusal where
  /-- An instruction that has no meaning in this model. No arm of `exec` raises it: all 11 commands are modelled. Safe. -/
  | notModelled (mnemonic : String)
  /-- The configuration is not well-formed. Raised by every step from such a state: "a model must refuse (not run) an
  ill-formed one" (R24, R44, U6). Safe: the spec gives no behaviour for it. -/
  | illFormedConfig
  deriving DecidableEq, Repr

/-- The state right after reset of a block that has the configuration `c`: every byte of `FS` is zero (R37, R160),
nothing is waiting and nothing has been answered (logs 3 and 4). -/
def State.resetWith (c : Config) : State :=
  { fs := Vector.replicate NSLOT 0#64, cfg := c, host := [], responses := [] }

/-- The state right after reset. The configuration is the placeholder (log 2). -/
def State.reset : State := State.resetWith Config.placeholder

end Sys2Proof.Machine
end

