-- ==== Sys2Proof/Machine/Ops.lean ====
section
/-! DEFINITION. The shared operations: the byte view of the frame register file, its one read and its one write, the
responses, the failure, and what the host does to the block. -/

namespace Sys2Proof.Machine

/-- What a step answers. -/
abbrev Result := Host.Outcome State Fault Refusal

/-! ### The frame register file (R21, R40 to R42) -/

/-- Byte `b` of a slot or a frame: bits `[8b+7:8b]` (R21). -/
def byteOf (v : Frame) (b : Nat) : Byte := v.extractLsb' (8 * b) 8

/-- `Mem[a]`: byte `a mod 8` of slot `floor(a / 8)` (R40), and nothing where there is no such slot (R46). -/
def memByte (fs : FrameFile) (a : Nat) : Option Byte := (fs[a / 8]?).map fun v => byteOf v (a % 8)

/-- `MemRead(a, 2) = {Mem[a+1], Mem[a]}`, the byte at the lower address less significant (R42, R43). -/
def memRead2 (fs : FrameFile) (a : Nat) : Option Halfword :=
  match memByte fs a, memByte fs (a + 1) with
  | some lo, some hi => some (hi ++ lo)
  | _, _ => none

/-- `FS[slot] <- v`, which is `MemWrite(8*slot, 8, v)`: all 64 bits of one slot (R13, R22, R41). Its one caller has
tested `slot < 14` (R81); there is no slot 14 or above to write (R46). -/
def writeSlot (fs : FrameFile) (slot : Nat) (v : Frame) : FrameFile := fs.setIfInBounds slot v

/-! ### Responses (R64 to R66) -/

/-- The status codes (R65). -/
def Status.code : Status → BitVec 8
  | .ok => 0x00#8
  | .reject => 0x01#8
  | .noResult => 0x02#8
  | .illegal => 0x03#8

/-- The response word: STATUS in bits 71:64, DATA in bits 63:0 (R64). -/
def Response.word (r : Response) : BitVec 72 := r.status.code ++ r.data

/-- OK with a 64-bit vector as its DATA, and no string (R64, R66). -/
def okData (d : Data) : Response := { status := .ok, data := d, str := [] }

/-- OK with an integer `n`, meaning `tc_64(n)` (R11, R64). -/
def okInt (n : Int) : Response := okData (BitVec.ofInt 64 n)

/-- OK with a string, DATA its length in bytes (R66). -/
def okString (str : ByteString) : Response :=
  { status := .ok, data := BitVec.ofNat 64 str.length, str := str }

/-- `respond(S, 0)`: DATA is all zero and the string is empty (R65, R66, R140). -/
def failureResponse (st : Status) : Response := { status := st, data := 0#64, str := [] }

/-- The state once a response is given. -/
def respond (r : Response) (s : State) : State := { s with responses := r :: s.responses }

/-- The state with another frame register file. -/
def setFs (fs : FrameFile) (s : State) : State := { s with fs := fs }

/-- End the command with a response (R13). -/
def answer (r : Response) (s : State) : Result := .next (respond r s)

/-- A failure, "the whole mechanism" of R140: a response, and no change of `FS`. The block has no trap entry and no
return (R146, R147). -/
def fail (st : Status) (s : State) : Result := answer (failureResponse st) s

/-! ### What every command starts with, and the table lookups -/

/-- The block runs only with a well-formed configuration (R24). -/
def whenWellFormed (s : State) (run : Result) : Result :=
  if s.cfg.wellFormed then run else .refused .illFormedConfig

/-- The range test of the identifier commands: the bound is exclusive and equal to the table's entry count (R7, R62,
R132). Outside it the answer is NORESULT (R141). -/
def lookup {α : Type} {n : Nat} (table : Vector α n) (id : Nat) (s : State) (found : α → Result) : Result :=
  match table[id]? with
  | some e => found e
  | none => fail .noResult s

/-- `WORD(FS, p)` of the entry `d`: `MemRead(8*d.SLOT + d.OFF, 2)` (R92). An entry that names bytes outside the file
makes the configuration ill-formed and is refused (R44, U6). -/
def extract (d : DescEntry) (s : State) (found : Halfword → Result) : Result :=
  match memRead2 s.fs (8 * d.slot + d.off) with
  | some w => found w
  | none => .refused .illFormedConfig

/-- `BFWORD(FS, p)`, which is `WORD(FS, p)` (R111). A `p` that is no parameter identifier makes the configuration
ill-formed (W5 of R24). -/
def bitFieldWord (p : Nat) (s : State) (found : Halfword → Result) : Result :=
  match s.cfg.desc[p]? with
  | some d => extract d s found
  | none => .refused .illFormedConfig

/-! ### The host's side of the port -/

/-- The host's next event, and the state once it is taken (R10). -/
def takeEvent (s : State) : Option (HostEvent × State) :=
  match s.host with
  | [] => none
  | e :: rest => some (e, { s with host := rest })

/-- The host issues `e` next. -/
def issue (e : HostEvent) (s : State) : State := { s with host := e :: s.host }

/-- Reset between two commands: every byte of `FS` is zero, and nothing else is state (R37, R160, R161). It is no
command and gives no response (R73; log 5). -/
def resetBlock (s : State) : Result := whenWellFormed s (.next (setFs (Vector.replicate NSLOT 0#64) s))

/-- An illegal word: `respond(ILLEGAL, 0)`, and no state change (R67). -/
def answerIllegal (s : State) : Result := whenWellFormed s (fail .illegal s)

/-- No event is waiting: the block keeps `FS` and waits (R144, R150). DESIGN CHOICE (log 6). -/
def idle (s : State) : Result := whenWellFormed s (.next s)

end Sys2Proof.Machine
end

