-- ==== Sys2Proof/Machine/Operands.lean ====
section
/-! DEFINITION. The operand forms: the fields of a frame (R63), and the 16-bit word as an integer (R93). -/

namespace Sys2Proof.Machine

/-- `sid = f[7:0]`, the slot identifier, as the integer it spells (R63, R80). -/
def sidOf (f : Frame) : Nat := (byteOf f 0).toNat

/-- `rsv = f[15:8]`, the reserved byte (R63). -/
def rsvOf (f : Frame) : Byte := byteOf f 1

/-- `A = f[31:16]` (R63). -/
def wordA (f : Frame) : Halfword := f.extractLsb' 16 16

/-- `B = f[47:32]` (R63). -/
def wordB (f : Frame) : Halfword := f.extractLsb' 32 16

/-- `C = f[63:48]` (R63). -/
def wordC (f : Frame) : Halfword := f.extractLsb' 48 16

/-- The frame of the five fields of R63. -/
def mkFrame (sid rsv : Byte) (a b c : Halfword) : Frame := c ++ (b ++ (a ++ (rsv ++ sid)))

/-- The frame is malformed: `sid >= 14` or `rsv != 0` (R81). Nothing else is tested (R82). -/
def malformed (f : Frame) : Bool := decide (NSLOT ≤ sidOf f) || rsvOf f != 0

/-- `RAW(FS, p)`: the word read as two's complement when `SIGNED = 1`, as an unsigned integer otherwise (R93). -/
def rawOf (d : DescEntry) (w : Halfword) : Int := if d.signed then w.toInt else (w.toNat : Int)

end Sys2Proof.Machine
end

