-- ==== Sys2Proof/Machine/Flags.lean ====
section
/-! DEFINITION. The bit computations of the flag decoder (R110, R113) and its constant table (R28). The block itself
has no status flags (R34), so no command computes one. -/

namespace Sys2Proof.Machine

/-- `FS_LUT`, the (OFFSET, WIDTH) table: anti-lag, launch control, traction control, cruise control (R28). -/
def fsLut : Vector (Nat × Nat) NSTATUS := #v[(5, 3), (3, 2), (0, 3), (12, 3)]

/-- `zext_64((w >> id) & 1)` (R110). -/
def limitBit (w : Halfword) (id : Nat) : Data := ((w >>> id) &&& 1#16).setWidth 64

/-- `zext_64((w >> off) & (2^wid - 1))` (R113). -/
def featureField (w : Halfword) (off wid : Nat) : Data :=
  ((w >>> off) &&& BitVec.ofNat 16 (2 ^ wid - 1)).setWidth 64

end Sys2Proof.Machine
end

