-- ==== Sys2Proof/Machine/BitField.lean ====
section
/-! DEFINITION. LIMITFLAG and FEATSTAT, the bit-field flag decoder (R110 to R118). -/

namespace Sys2Proof.Machine

/-- LIMITFLAG (R110): bit `id` of the limit-flags word for `id < 16`, NORESULT otherwise (R112). -/
def execLimitFlag (id : Nat) (s : State) : Result :=
  whenWellFormed s <|
    if id < NFLAG then bitFieldWord s.cfg.pLimits s fun w => answer (okData (limitBit w id)) s
    else fail .noResult s

/-- FEATSTAT (R113): the field `FS_LUT[id]` of the status word, whatever its value (R114), for `id < 4`; NORESULT
otherwise (R116). -/
def execFeatStat (id : Nat) (s : State) : Result :=
  whenWellFormed s <|
    lookup fsLut id s fun field =>
      bitFieldWord s.cfg.pStatus s fun w => answer (okData (featureField w field.1 field.2)) s

end Sys2Proof.Machine
end

