-- ==== Sys2Proof/Machine/Catalog.lean ====
section
/-! DEFINITION. The seven catalog lookups (R125 to R133). None of them reads or writes the frame register file. -/

namespace Sys2Proof.Machine

/-- PNAME (R125). -/
def execPName (id : Nat) (s : State) : Result :=
  whenWellFormed s <| lookup s.cfg.metaTable id s fun m => answer (okString m.name) s

/-- PUNIT (R126). -/
def execPUnit (id : Nat) (s : State) : Result :=
  whenWellFormed s <| lookup s.cfg.metaTable id s fun m => answer (okString m.unit) s

/-- PDEC (R127): the integer, sign-extended to 64 bits (D20). -/
def execPDec (id : Nat) (s : State) : Result :=
  whenWellFormed s <| lookup s.cfg.metaTable id s fun m => answer (okInt m.decimals.toInt) s

/-- PMIN (R128). -/
def execPMin (id : Nat) (s : State) : Result :=
  whenWellFormed s <| lookup s.cfg.metaTable id s fun m => answer (okInt m.min.toInt) s

/-- PMAX (R129). -/
def execPMax (id : Nat) (s : State) : Result :=
  whenWellFormed s <| lookup s.cfg.metaTable id s fun m => answer (okInt m.max.toInt) s

/-- LFNAME (R130). -/
def execLfName (id : Nat) (s : State) : Result :=
  whenWellFormed s <| lookup s.cfg.lfNameRom id s fun str => answer (okString str) s

/-- FAULTDESC (R131). Identifier 0, "no fault", is inside the range. -/
def execFaultDesc (id : Nat) (s : State) : Result :=
  whenWellFormed s <| lookup s.cfg.faultRom id s fun str => answer (okString str) s

end Sys2Proof.Machine
end

