-- ==== Sys2Proof/Machine/Scaler.lean ====
section
/-! DEFINITION. The fixed-point scaler: `tdiv` (R11, R98), the five lines of R95, and the rational value of R94. -/

namespace Sys2Proof.Machine

/-- Division truncating toward zero, for `d > 0` (R11, R98). -/
def tdiv (n d : Int) : Int := if 0 ≤ n then n / d else -((-n) / d)

/-- `Q(FS, p)` of the entry `d` and the raw integer: the value in thousandths, line by line as R95. -/
def scale (d : DescEntry) (raw : Int) : Int :=
  let t1 := raw + d.pre
  let t2 := t1 * d.mul
  let t3 := t2 * QSCALE
  let t4 := tdiv t3 d.div
  t4 + QSCALE * d.post

/-- `VAL(FS, p)` of the entry `d` and the raw integer, exact in the rationals (R94). No command computes it; claims
compare `scale` with it (R97, R111). -/
def value (d : DescEntry) (raw : Int) : Rat := ((raw : Rat) + d.pre) * d.mul / d.div + d.post

end Sys2Proof.Machine
end

