-- ==== Sys2Proof/Machine/Extractor.lean ====
section
/-! DEFINITION. DECODE, the parameter extractor and fixed-point scaler (R90 to R101). -/

namespace Sys2Proof.Machine

/-- DECODE (R90): `Q(FS, id)` for `id < 41`, NORESULT otherwise (R91). A slot that never received a frame decodes as
zero bytes (R99). -/
def execDecode (id : Nat) (s : State) : Result :=
  whenWellFormed s <|
    lookup s.cfg.desc id s fun d =>
      extract d s fun w => answer (okInt (scale d (rawOf d w))) s

end Sys2Proof.Machine
end

