-- ==== Sys2Proof/Machine/Ingest.lean ====
section
/-! DEFINITION. INGEST, the slot-indexed frame write (R80 to R84). -/

namespace Sys2Proof.Machine

/-- INGEST (R80): a malformed frame is answered REJECT and writes nothing (R81); any other frame replaces the whole
slot it names (R83). -/
def execIngest (f : Frame) (s : State) : Result :=
  whenWellFormed s <|
    if malformed f then fail .reject s
    else answer (okData 0#64) (setFs (writeSlot s.fs (sidOf f) f) s)

end Sys2Proof.Machine
end

