-- ==== Sys2Proof/Machine/Dispatch.lean ====
section
/-! DEFINITION. One arm per command. -/

namespace Sys2Proof.Machine

def exec (i : Instr) (s : State) : Host.Outcome State Fault Refusal :=
  match i with
  | .ingest f => Sys2Proof.Machine.execIngest f s
  | .decode id => Sys2Proof.Machine.execDecode id s
  | .limitFlag id => Sys2Proof.Machine.execLimitFlag id s
  | .featStat id => Sys2Proof.Machine.execFeatStat id s
  | .pName id => Sys2Proof.Machine.execPName id s
  | .pUnit id => Sys2Proof.Machine.execPUnit id s
  | .pDec id => Sys2Proof.Machine.execPDec id s
  | .pMin id => Sys2Proof.Machine.execPMin id s
  | .pMax id => Sys2Proof.Machine.execPMax id s
  | .lfName id => Sys2Proof.Machine.execLfName id s
  | .faultDesc id => Sys2Proof.Machine.execFaultDesc id s

end Sys2Proof.Machine
end

