-- ==== Sys2Proof/Machine/Step.lean ====
section
/-! DEFINITION. One step: the host's next event (R10), atomically and to its end (R14, R48). -/

namespace Sys2Proof.Machine

/-- Take the host's next event. A command word is decoded, and the illegal-word test comes before any other (R71,
R145). -/
def step (s : State) : Host.Outcome State Fault Refusal :=
  match takeEvent s with
  | none => idle s
  | some (.reset, s') => resetBlock s'
  | some (.command w, s') =>
    match decode w with
    | .ok i => exec i s'
    | .error _ => answerIllegal s'

/-- The host issues the word next, so that the next step runs it (log 3). -/
def State.withFetchWord (s : State) (nbits w : Nat) : State := issue (.command (tableWord nbits w)) s

end Sys2Proof.Machine
end

