-- ==== Sys2Proof/Machine/Assembler.lean ====
section
/-! DEFINITION. The textual form of a command sequence (R69) and its pseudo-instructions (R70). The block does not
read text: this is the spec's notation for command words. DESIGN CHOICE (log 14) where R69 is silent. -/

namespace Sys2Proof.Machine

/-- The ten mnemonics whose operand is an identifier (R69). -/
inductive IdentOp where
  | decode
  | limitFlag
  | featStat
  | pName
  | pUnit
  | pDec
  | pMin
  | pMax
  | lfName
  | faultDesc
  deriving DecidableEq, Repr

/-- The names `FEATSTAT` takes (R70). -/
inductive FeatureName where
  | antiLag
  | launch
  | traction
  | cruise
  deriving DecidableEq, Repr

/-- The names `DECODE` takes (R70). -/
inductive ParamName where
  | limits
  | status
  | trig1Err
  | fault
  | fuelPress
  | coolant
  deriving DecidableEq, Repr

/-- A line of R69, or one of the three pseudo-instructions of R70. An operand is the integer that is written. -/
inductive AsmLine where
  /-- `INGEST b0, …, b7`. -/
  | ingest (b0 b1 b2 b3 b4 b5 b6 b7 : Int)
  /-- A mnemonic with an identifier. -/
  | ident (op : IdentOp) (p : Int)
  /-- `INGESTW s, A, B, C`. -/
  | ingestW (s a b c : Int)
  /-- `FEATSTAT <name>`. -/
  | featStat (t : FeatureName)
  /-- `DECODE <name>`. -/
  | decode (p : ParamName)
  deriving DecidableEq, Repr

/-- The command of an identifier mnemonic. -/
def IdentOp.instr : IdentOp → Nat → Instr
  | .decode => .decode
  | .limitFlag => .limitFlag
  | .featStat => .featStat
  | .pName => .pName
  | .pUnit => .pUnit
  | .pDec => .pDec
  | .pMin => .pMin
  | .pMax => .pMax
  | .lfName => .lfName
  | .faultDesc => .faultDesc

/-- The feature status identifier of a name (R28, R70). -/
def FeatureName.ident : FeatureName → Int
  | .antiLag => 0
  | .launch => 1
  | .traction => 2
  | .cruise => 3

/-- The parameter identifier of a name: "these names have a value only once a configuration is chosen" (R70). -/
def ParamName.ident (c : Config) : ParamName → Int
  | .limits => c.pLimits
  | .status => c.pStatus
  | .trig1Err => c.pTrig1Err
  | .fault => c.pFault
  | .fuelPress => c.pFuelPress
  | .coolant => c.pCoolant

/-- An operand of INGEST: "each b_k a byte, 0 to 255" (R69). Another value is an assembler error. -/
def byteOperand (n : Int) : Option Byte := if 0 ≤ n ∧ n ≤ 255 then some (BitVec.ofInt 8 n) else none

/-- An operand of INGESTW: an integer from -32768 to 65535 (R70). -/
def wordOperandOk (n : Int) : Bool := decide (-32768 ≤ n) && decide (n ≤ 65535)

/-- `a0 = A mod 256` (R70). -/
def lowByte (n : Int) : Int := n % 256

/-- `a1 = floor((A mod 65536) / 256)` (R70). -/
def highByte (n : Int) : Int := (n % 65536) / 256

/-- Replace a pseudo-instruction by its expansion (R70). -/
def AsmLine.expand (c : Config) : AsmLine → Option AsmLine
  | .ingestW s wa wb wc =>
    if wordOperandOk wa && wordOperandOk wb && wordOperandOk wc then
      some (.ingest s 0 (lowByte wa) (highByte wa) (lowByte wb) (highByte wb) (lowByte wc) (highByte wc))
    else none
  | .featStat t => some (.ident .featStat t.ident)
  | .decode p => some (.ident .decode (p.ident c))
  | .ingest b0 b1 b2 b3 b4 b5 b6 b7 => some (.ingest b0 b1 b2 b3 b4 b5 b6 b7)
  | .ident op p => some (.ident op p)

/-- The command of a line that is no pseudo-instruction, with the operand ranges of R69. -/
def AsmLine.plain : AsmLine → Option Instr
  | .ingest b0 b1 b2 b3 b4 b5 b6 b7 =>
    match byteOperand b0, byteOperand b1, byteOperand b2, byteOperand b3, byteOperand b4, byteOperand b5,
      byteOperand b6, byteOperand b7 with
    | some x0, some x1, some x2, some x3, some x4, some x5, some x6, some x7 =>
      some (.ingest (x7 ++ (x6 ++ (x5 ++ (x4 ++ (x3 ++ (x2 ++ (x1 ++ x0))))))))
    | _, _, _, _, _, _, _, _ => none
  | .ident op p => if 0 ≤ p ∧ p ≤ 65535 then some (op.instr p.toNat) else none
  | .ingestW _ _ _ _ => none
  | .featStat _ => none
  | .decode _ => none

/-- The command a line stands for, or none for an assembler error. -/
def AsmLine.instr? (c : Config) (l : AsmLine) : Option Instr := (l.expand c).bind AsmLine.plain

/-- The command word a line assembles to (R69). -/
def AsmLine.assemble (c : Config) (l : AsmLine) : Option CmdWord := (l.instr? c).map encode

/-! ### From text -/

/-- Blank, tab and carriage return may stand between the parts of a line (log 14). -/
def isBlank (ch : Char) : Bool := ch == ' ' || ch == '\t' || ch == '\r'

/-- Without the blanks at either end. -/
def trimBlanks (cs : List Char) : List Char := ((cs.dropWhile isBlank).reverse.dropWhile isBlank).reverse

/-- The pieces between the separators, at least one. -/
def splitAtChar (sep : Char) : List Char → List (List Char)
  | [] => [[]]
  | ch :: cs =>
    if ch = sep then [] :: splitAtChar sep cs
    else
      match splitAtChar sep cs with
      | [] => [[ch]]
      | piece :: rest => (ch :: piece) :: rest

/-- The value of a digit of any radix up to 16. -/
def digitValue (ch : Char) : Option Nat :=
  if '0' ≤ ch ∧ ch ≤ '9' then some (ch.toNat - '0'.toNat)
  else if 'a' ≤ ch ∧ ch ≤ 'f' then some (ch.toNat - 'a'.toNat + 10)
  else if 'A' ≤ ch ∧ ch ≤ 'F' then some (ch.toNat - 'A'.toNat + 10)
  else none

/-- Digits of one radix, the most significant first, after a value already read. -/
def digitsFrom (radix : Nat) : Nat → List Char → Option Nat
  | acc, [] => some acc
  | acc, ch :: cs =>
    match digitValue ch with
    | some v => if v < radix then digitsFrom radix (radix * acc + v) cs else none
    | none => none

/-- At least one digit of a radix. -/
def digitsOf (radix : Nat) (cs : List Char) : Option Nat := if cs.isEmpty then none else digitsFrom radix 0 cs

/-- "Numerals are decimal, `0x` hexadecimal or `0b` binary" (R69). -/
def natural : List Char → Option Nat
  | '0' :: 'x' :: cs => digitsOf 16 cs
  | '0' :: 'b' :: cs => digitsOf 2 cs
  | cs => digitsOf 10 cs

/-- A numeral, with a minus sign in front of a negative one (the spec's programs write `INGESTW 3, -40, 1385, -1`). -/
def numeral : List Char → Option Int
  | '-' :: cs => (natural cs).map fun n => -(n : Int)
  | cs => (natural cs).map fun n => (n : Int)

/-- The mnemonics of the identifier commands (R61, R69). -/
def identOpOf (m : List Char) : Option IdentOp :=
  if m = "DECODE".toList then some .decode
  else if m = "LIMITFLAG".toList then some .limitFlag
  else if m = "FEATSTAT".toList then some .featStat
  else if m = "PNAME".toList then some .pName
  else if m = "PUNIT".toList then some .pUnit
  else if m = "PDEC".toList then some .pDec
  else if m = "PMIN".toList then some .pMin
  else if m = "PMAX".toList then some .pMax
  else if m = "LFNAME".toList then some .lfName
  else if m = "FAULTDESC".toList then some .faultDesc
  else none

/-- The names of R70 that FEATSTAT takes. -/
def featureNameOf (m : List Char) : Option FeatureName :=
  if m = "ANTILAG".toList then some .antiLag
  else if m = "LAUNCH".toList then some .launch
  else if m = "TRACTION".toList then some .traction
  else if m = "CRUISE".toList then some .cruise
  else none

/-- The names of R70 that DECODE takes. -/
def paramNameOf (m : List Char) : Option ParamName :=
  if m = "LIMITS".toList then some .limits
  else if m = "STATUS".toList then some .status
  else if m = "TRIG1ERR".toList then some .trig1Err
  else if m = "FAULT".toList then some .fault
  else if m = "FUELPRESS".toList then some .fuelPress
  else if m = "COOLANT".toList then some .coolant
  else none

/-- A line whose operands are numerals. -/
def numericLine (m : List Char) (operands : List Int) : Option AsmLine :=
  match operands with
  | [b0, b1, b2, b3, b4, b5, b6, b7] =>
    if m = "INGEST".toList then some (.ingest b0 b1 b2 b3 b4 b5 b6 b7) else none
  | [s, wa, wb, wc] => if m = "INGESTW".toList then some (.ingestW s wa wb wc) else none
  | [p] => (identOpOf m).map fun op => .ident op p
  | _ => none

/-- A line whose one operand is a name of R70. -/
def namedLine (m : List Char) (operands : List (List Char)) : Option AsmLine :=
  match operands with
  | [name] =>
    if m = "FEATSTAT".toList then (featureNameOf name).map .featStat
    else if m = "DECODE".toList then (paramNameOf name).map .decode
    else none
  | _ => none

/-- One line of text: `;` starts a comment, and a blank line is ignored (R69). None is an assembler error, `some none`
a line with no command. -/
def parseLine (text : List Char) : Option (Option AsmLine) :=
  let code := trimBlanks (text.takeWhile fun ch => ch ≠ ';')
  if code.isEmpty then some none
  else
    let m := code.takeWhile fun ch => !isBlank ch
    let operands := (splitAtChar ',' (code.drop m.length)).map trimBlanks
    match operands.mapM numeral with
    | some ns => (numericLine m ns).map some
    | none => (namedLine m operands).map some

/-- The word of one line of text, none for an assembler error, `some none` for a line with no command. -/
def assembleLine (c : Config) (text : List Char) : Option (Option CmdWord) :=
  match parseLine text with
  | none => none
  | some none => some none
  | some (some l) => (l.assemble c).map some

/-- The command words of a text, one command a line (R69), or none if some line is an assembler error. -/
def assembleText (c : Config) (text : List Char) : Option (List CmdWord) :=
  ((splitAtChar '\n' text).mapM (assembleLine c)).map fun ws => ws.filterMap id

end Sys2Proof.Machine
end

