-- ==== Sys2Proof/Machine/MemoryView.lean ====
section
/-! DEFINITION. The frame register file as a list of (address, byte) cells in one canonical form (R40, R46). The
registers are the one home of the bytes (R20); this view is computed from them (log 16). -/

namespace Sys2Proof.Machine

/-- The number of byte addresses: 0 to 111 (R40). -/
abbrev NBYTES : Nat := 112

/-- What an address the list does not hold reads as: the reset value (R37). -/
def unlistedByte : Byte := 0#8

/-- The cell of an address, where it holds another byte than an unlisted address. -/
def cellAt (fs : FrameFile) (a : Nat) : Option Host.Cell :=
  (memByte fs a).bind fun b => if b = unlistedByte then none else some (a, b)

/-- The bytes of the file that are not zero, their addresses rising. -/
def cells (fs : FrameFile) : List Host.Cell := (List.range NBYTES).filterMap (cellAt fs)

/-- The byte a list of cells holds at an address. -/
def cellsRead (m : List Host.Cell) (a : Nat) : Byte := ((m.find? fun cell => cell.1 == a).map Prod.snd).getD unlistedByte

/-- The canonical form: addresses strictly rising and inside the 112 bytes, no cell equal to an unlisted one. -/
abbrev Memory.wf (m : List Host.Cell) : Prop :=
  (m.Pairwise fun x y => x.1 < y.1) ∧ ∀ cell ∈ m, cell.1 < NBYTES ∧ cell.2 ≠ unlistedByte

end Sys2Proof.Machine
end

