-- ==== Sys2Proof/Safety.lean ====
section
/-! DEFINITION. What the claims speak of: a state that runs, the invariant of R38, and what a sequence of host events
leaves in a slot (R48). -/

namespace Sys2Proof.Machine

/-- The next state, if the outcome is one. -/
def nextState? : Result → Option State
  | .next s => some s
  | .fault _ => none
  | .refused _ => none

/-- The newest response of the next state, if there is one. -/
def answered (r : Result) : Option Response := (nextState? r).bind fun s => s.responses.head?

/-- A state the block runs from: its configuration is well-formed (R24). -/
abbrev Runs (s : State) : Prop := s.cfg.wellFormed = true

/-- R38, for one slot: byte 1 is 0, and the slot is 0 or its byte 0 names it. -/
abbrev SlotInv (slot : Nat) (v : Frame) : Prop := byteOf v 1 = 0#8 ∧ (v = 0#64 ∨ sidOf v = slot)

/-- R38: every slot holds zero or a frame that was accepted for it. -/
def FrameFileInv (fs : FrameFile) : Prop := ∀ slot v, fs[slot]? = some v → SlotInv slot v

/-- The invariant of every reachable state: R24 for the configuration, R38 for the registers. -/
def Inv (s : State) : Prop := Runs s ∧ FrameFileInv s.fs

/-- What a host event writes into a slot, if it writes it: reset writes zero (R37), an INGEST word whose frame is not
malformed writes the frame into the slot it names (R80), and nothing else writes (R22). -/
def writes (slot : Nat) : HostEvent → Option Frame
  | .reset => some 0#64
  | .command w =>
    if CmdWord.opcode w = 0x01#8 ∧ sidOf (CmdWord.arg w) = slot ∧ rsvOf (CmdWord.arg w) = 0#8
    then some (CmdWord.arg w) else none

/-- The latest write a sequence of events makes to a slot, if there is one (R48). -/
def latestWrite (slot : Nat) (events : List HostEvent) : Option Frame := (events.filterMap (writes slot)).getLast?

/-- How many of the events are command words. -/
def commandCount (events : List HostEvent) : Nat :=
  (events.filter fun e => match e with | .command _ => true | .reset => false).length

end Sys2Proof.Machine
end

