-- ==== Sys2Proof/Certificates/Slice0/Obligations.lean ====
section
/-! DEFINITION. The statements for the provers. A claim about every state is a claim about every configuration, since
the configuration is a field of the state (log 1). Responses are written ⟨STATUS, DATA, str⟩. -/

open Sys2Proof Sys2Proof.Machine

/-! ### Encoding (R60 to R71) -/

/-- Sanity: words of 95_test_vectors.md and of R61's map, one for each opcode, decode to what they stand for, and two
illegal ones to nothing. -/
def Obligations.SpecWordsDecodeToTheirCommands : Prop :=
  decode 0x01012C000F00000007#72 = .ok (.ingest 0x012C000F00000007#64) ∧
  decode 0x020000000000000017#72 = .ok (.decode 23) ∧
  decode 0x03000000000000000F#72 = .ok (.limitFlag 15) ∧
  decode 0x040000000000000002#72 = .ok (.featStat 2) ∧
  decode 0x050000000000000028#72 = .ok (.pName 40) ∧
  decode 0x060000000000000029#72 = .ok (.pUnit 41) ∧
  decode 0x070000000000000029#72 = .ok (.pDec 41) ∧
  decode 0x080000000000000008#72 = .ok (.pMin 8) ∧
  decode 0x090000000000000029#72 = .ok (.pMax 41) ∧
  decode 0x0A000000000000000F#72 = .ok (.lfName 15) ∧
  decode 0x0B000000000000FFFF#72 = .ok (.faultDesc 65535) ∧
  decode 0x000000000000000000#72 = .error .opcode ∧
  decode 0x03800000000000000F#72 = .error .reservedBits

/-- Every command whose identifier fits its 16 bits reads back from its word, whatever its frame or identifier (R60,
R61). -/
def Obligations.DecodeOfEncodeIsTheCommand : Prop :=
  ∀ i : Instr, i.wellFormed = true → decode (encode i) = .ok i

/-- Every legal word has one reading: it is the encoding of the command it decodes to, and that command is
well-formed. -/
def Obligations.LegalWordIsTheEncodingOfItsCommand : Prop :=
  ∀ (w : CmdWord) (i : Instr), decode w = .ok i → i.wellFormed = true ∧ encode i = w

/-- R61 in its match-and-mask form. -/
def Obligations.OpcodeMapInMatchAndMaskForm : Prop :=
  (∀ (w : CmdWord) (f : Frame), decode w = .ok (.ingest f) ↔
    w &&& 0xFF0000000000000000#72 = 0x010000000000000000#72 ∧ f = w.extractLsb' 0 64) ∧
  ∀ row ∈ [(0x02#72, Instr.decode), (0x03#72, Instr.limitFlag), (0x04#72, Instr.featStat), (0x05#72, Instr.pName),
      (0x06#72, Instr.pUnit), (0x07#72, Instr.pDec), (0x08#72, Instr.pMin), (0x09#72, Instr.pMax),
      (0x0A#72, Instr.lfName), (0x0B#72, Instr.faultDesc)],
    ∀ (w : CmdWord) (id : Nat), decode w = .ok (row.2 id) ↔
      w &&& 0xFFFFFFFFFFFFFF0000#72 = row.1 <<< 64 ∧ id = (w.extractLsb' 0 16).toNat

/-- R67: which words are illegal; what an illegal word does; every other word is a command, and the step runs it; a
frame with a non-zero reserved byte is no illegal word but is answered REJECT. -/
def Obligations.IllegalWordsAndOnlyTheyAreAnsweredIllegal : Prop :=
  ∀ (w : CmdWord) (s : State) (rest : List HostEvent), s.cfg.wellFormed = true → s.host = .command w :: rest →
    let op := (w.extractLsb' 64 8).toNat
    let illegalWord := (op = 0 ∨ 0x0C ≤ op) ∨ (0x02 ≤ op ∧ op ≤ 0x0B ∧ w.extractLsb' 16 48 ≠ 0#48)
    (illegalWord → step s = .next { s with host := rest, responses := ⟨.illegal, 0#64, []⟩ :: s.responses }) ∧
    (¬ illegalWord → ∃ (i : Instr) (t : State) (r : Response), decode w = .ok i ∧
      step s = exec i { s with host := rest } ∧ step s = .next t ∧ t.responses = r :: s.responses ∧
      r.status ≠ .illegal) ∧
    (op = 0x01 → w.extractLsb' 8 8 ≠ 0#8 →
      step s = .next { s with host := rest, responses := ⟨.reject, 0#64, []⟩ :: s.responses })

/-- R64 and R65: where STATUS and DATA stand in the response word, and the four codes. -/
def Obligations.ResponseWordCarriesStatusAboveData : Prop :=
  ∀ r : Response, r.word.extractLsb' 64 8 = r.status.code ∧ r.word.extractLsb' 0 64 = r.data ∧
    r.status.code = (match r.status with
      | .ok => 0x00#8
      | .reject => 0x01#8
      | .noResult => 0x02#8
      | .illegal => 0x03#8)

/-- The assembler cannot produce an illegal word: what it produces decodes to the command of the line (R69). -/
def Obligations.AssemblerProducesOnlyLegalWords : Prop :=
  ∀ (c : Config) (l : AsmLine) (w : CmdWord), l.assemble c = some w →
    ∃ i : Instr, decode w = .ok i ∧ l.instr? c = some i

/-- R70: INGESTW builds the frame with the reserved byte 0 and the three words, each modulo 65536, in little-endian
order; an operand outside its range is an error. -/
def Obligations.IngestWBuildsTheFrameOfItsWords : Prop :=
  ∀ (c : Config) (s wa wb wc : Int),
    (((0 ≤ s ∧ s ≤ 255) ∧ (-32768 ≤ wa ∧ wa ≤ 65535) ∧ (-32768 ≤ wb ∧ wb ≤ 65535) ∧ (-32768 ≤ wc ∧ wc ≤ 65535)) →
      ∃ f : Frame, (AsmLine.ingestW s wa wb wc).assemble c = some (0x01#8 ++ f) ∧
        ((f.extractLsb' 0 8).toNat : Int) = s ∧ f.extractLsb' 8 8 = 0#8 ∧
        ((f.extractLsb' 16 16).toNat : Int) = wa % 65536 ∧ ((f.extractLsb' 32 16).toNat : Int) = wb % 65536 ∧
        ((f.extractLsb' 48 16).toNat : Int) = wc % 65536) ∧
    (¬((0 ≤ s ∧ s ≤ 255) ∧ (-32768 ≤ wa ∧ wa ≤ 65535) ∧ (-32768 ≤ wb ∧ wb ≤ 65535) ∧ (-32768 ≤ wc ∧ wc ≤ 65535)) →
      (AsmLine.ingestW s wa wb wc).assemble c = none)

/-! ### The step (R10, R14, R24, R160, R161) -/

/-- When the word the host issues next decodes to a command, the step is that command's, from the state in which the
word has been taken. -/
def Obligations.StepRunsTheDecodedCommand : Prop :=
  ∀ (s : State) (w : CmdWord) (i : Instr) (rest : List HostEvent),
    s.host = .command w :: rest → decode w = .ok i → step s = exec i { s with host := rest }

/-- R14: every command ends with exactly one response and one next state, legal or not. -/
def Obligations.EveryCommandWordEndsWithOneResponse : Prop :=
  ∀ (s : State) (w : CmdWord) (rest : List HostEvent), s.cfg.wellFormed = true → s.host = .command w :: rest →
    ∃ (t : State) (r : Response), step s = .next t ∧ t.responses = r :: s.responses ∧ t.host = rest

/-- No step stops: with a well-formed configuration every step answers a next state. -/
def Obligations.StepNeverStopsWhenWellFormed : Prop :=
  ∀ s : State, s.cfg.wellFormed = true → ∃ t, step s = .next t

/-- A reset between two commands zeroes every slot, changes nothing else and gives no response (R160, R161). That the
responses and the pending events stay is the model's choice (log 5). -/
def Obligations.ResetEventZeroesEverySlot : Prop :=
  ∀ (s : State) (rest : List HostEvent), s.cfg.wellFormed = true → s.host = .reset :: rest →
    ∃ t, step s = .next t ∧ (∀ slot : Fin 14, t.fs[slot] = 0#64) ∧ t.cfg = s.cfg ∧ t.host = rest ∧
      t.responses = s.responses

/-- With no event waiting a step changes nothing. This is the model's choice (log 6). -/
def Obligations.StepWithoutEventKeepsTheState : Prop :=
  ∀ s : State, s.cfg.wellFormed = true → s.host = [] → step s = .next s

/-- R24: what well-formedness is (W6 as log 8 reads the coolant entry, with the identity scale of P_TRIG1ERR and
P_FAULT that R26 marks as the spec's inference, D10, log 11), and that nothing runs without it (log 7). -/
def Obligations.IllFormedConfigurationIsRefused : Prop :=
  (∀ c : Config, c.wellFormed = true ↔
    (∀ p : Fin 41, c.desc[p].slot ≤ 13 ∧ (c.desc[p].off = 2 ∨ c.desc[p].off = 4 ∨ c.desc[p].off = 6) ∧
      (1 ≤ c.desc[p].div ∧ c.desc[p].div ≤ 32767) ∧ (-32768 ≤ c.desc[p].pre ∧ c.desc[p].pre ≤ 32767) ∧
      (-32768 ≤ c.desc[p].mul ∧ c.desc[p].mul ≤ 32767) ∧ (-32768 ≤ c.desc[p].post ∧ c.desc[p].post ≤ 32767)) ∧
    (c.pLimits ≠ c.pStatus ∧ ∀ p ∈ [c.pLimits, c.pStatus], ∃ h : p < 41,
      c.desc[p].pre = 0 ∧ c.desc[p].mul = 1 ∧ c.desc[p].div = 1 ∧ c.desc[p].post = 0) ∧
    (∀ pin ∈ [(c.pTrig1Err, 2), (c.pFault, 4), (c.pFuelPress, 6)], ∃ h : pin.1 < 41,
      c.desc[pin.1].slot = 7 ∧ c.desc[pin.1].off = pin.2 ∧ c.desc[pin.1].signed = true ∧ c.desc[pin.1].pre = 0 ∧
      c.desc[pin.1].mul = 1 ∧ c.desc[pin.1].div = 1 ∧ c.desc[pin.1].post = 0) ∧
    ∃ h : c.pCoolant < 41, c.desc[c.pCoolant].signed = true ∧ c.desc[c.pCoolant].mul = 1 ∧
      c.desc[c.pCoolant].div = 1 ∧ c.desc[c.pCoolant].pre + c.desc[c.pCoolant].post = -50) ∧
  ∀ s : State, s.cfg.wellFormed = false →
    step s = .refused .illFormedConfig ∧ ∀ i : Instr, exec i s = .refused .illFormedConfig

/-- R37: after reset every byte of `FS` is zero. -/
def Obligations.ResetLeavesEveryByteZero : Prop :=
  (∀ slot : Fin 14, State.reset.fs[slot] = 0#64) ∧ ∀ a < 112, memByte State.reset.fs a = some 0#8

/-- The invariant of R38 holds right after reset, whatever well-formed configuration the block has. -/
def Obligations.ResetMeetsTheSlotInvariant : Prop :=
  Inv State.reset ∧ ∀ c : Config, c.wellFormed = true → Inv (State.resetWith c)

/-! ### INGEST (R80 to R84) -/

/-- R80: the encoding, and both arms of the pseudocode. -/
def Obligations.IngestWritesTheSlotOrRejects : Prop :=
  ∀ (f : Frame) (s : State), s.cfg.wellFormed = true →
    let sid := (f.extractLsb' 0 8).toNat
    let rsv := f.extractLsb' 8 8
    decode (0x01#8 ++ f) = .ok (.ingest f) ∧
    (14 ≤ sid ∨ rsv ≠ 0#8 →
      exec (.ingest f) s = .next { s with responses := ⟨.reject, 0#64, []⟩ :: s.responses }) ∧
    ∀ h : sid < 14, rsv = 0#8 →
      exec (.ingest f) s =
        .next { s with fs := s.fs.set sid f h, responses := ⟨.ok, 0#64, []⟩ :: s.responses }

/-- The bytes INGEST stores and the bytes it leaves (R41, R81): an accepted frame is stored at `8 * sid`, a malformed
one stores nothing; the configuration, the pending events and the earlier responses stay. -/
def Obligations.IngestStoresEightBytesAtEightTimesSid : Prop :=
  ∀ (f : Frame) (s t : State), exec (.ingest f) s = .next t →
    (malformed f = false → ∀ a : Nat,
      (∀ b < 8, a = 8 * sidOf f + b → memByte t.fs a = some (f.extractLsb' (8 * b) 8)) ∧
      (¬(8 * sidOf f ≤ a ∧ a < 8 * sidOf f + 8) → memByte t.fs a = memByte s.fs a)) ∧
    (malformed f = true → ∀ a : Nat, memByte t.fs a = memByte s.fs a) ∧
    t.cfg = s.cfg ∧ t.host = s.host ∧ ∃ r, t.responses = r :: s.responses

/-- R83: of two accepted frames for one slot nothing of the first survives; other slots keep their content; and every
parameter of the slot reads from the second. -/
def Obligations.LaterFrameReplacesTheWholeSlot : Prop :=
  ∀ (f g : Frame) (s : State), s.cfg.wellFormed = true → malformed f = false → malformed g = false →
    sidOf f = sidOf g →
    ∃ t u : State, exec (.ingest f) s = .next t ∧ exec (.ingest g) t = .next u ∧
      u.fs[sidOf g]? = some g ∧ (∀ slot, slot ≠ sidOf g → u.fs[slot]? = s.fs[slot]?) ∧
      ∀ (p : Nat) (d : DescEntry), s.cfg.desc[p]? = some d → d.slot = sidOf g →
        memRead2 u.fs (8 * d.slot + d.off) = some (g.extractLsb' (8 * d.off) 16)

/-- R82: no other test is made. Whether a frame is accepted depends on its bytes 0 and 1 alone, in whatever state it
arrives, and repeating a slot's content is accepted and changes nothing. -/
def Obligations.AcceptanceDependsOnTwoBytesAlone : Prop :=
  (∀ (f g : Frame) (s s' : State), f.extractLsb' 0 16 = g.extractLsb' 0 16 → s.cfg.wellFormed = true →
    s'.cfg.wellFormed = true → answered (exec (.ingest f) s) = answered (exec (.ingest g) s')) ∧
  ∀ (f : Frame) (s : State), s.cfg.wellFormed = true → malformed f = false → s.fs[sidOf f]? = some f →
    exec (.ingest f) s = .next { s with responses := ⟨.ok, 0#64, []⟩ :: s.responses }

/-- R161: no command clears a slot 1 to 13 that holds a frame, while the all-zero frame clears slot 0. -/
def Obligations.NoCommandClearsASlotAboveZero : Prop :=
  (∀ (s t : State) (i : Instr) (slot : Nat) (v w : Frame), exec i s = .next t → 1 ≤ slot →
    s.fs[slot]? = some v → v ≠ 0#64 → t.fs[slot]? = some w → w ≠ 0#64) ∧
  ∀ s : State, s.cfg.wellFormed = true → ∃ t, exec (.ingest 0#64) s = .next t ∧ t.fs[0]? = some 0#64

/-! ### DECODE (R90 to R101) -/

/-- R90 with R92, R93 and the five lines of R95 written out: the encoding, the range, the value. -/
def Obligations.DecodeAnswersTheScaledWord : Prop :=
  ∀ (s : State) (id : Nat), s.cfg.wellFormed = true →
    (id < 65536 → decode (0x02#8 ++ (0#48 ++ BitVec.ofNat 16 id)) = .ok (.decode id)) ∧
    (41 ≤ id → exec (.decode id) s = .next { s with responses := ⟨.noResult, 0#64, []⟩ :: s.responses }) ∧
    ∀ h : id < 41,
      let d := s.cfg.desc[id]
      ∃ lo hi : Byte, memByte s.fs (8 * d.slot + d.off) = some lo ∧ memByte s.fs (8 * d.slot + d.off + 1) = some hi ∧
        let word : BitVec 16 := hi ++ lo
        let raw : Int := if d.signed then word.toInt else word.toNat
        let t1 := raw + d.pre
        let t2 := t1 * d.mul
        let t3 := t2 * 1000
        let t4 := Int.tdiv t3 d.div
        let q := t4 + 1000 * d.post
        exec (.decode id) s = .next { s with responses := ⟨.ok, BitVec.ofInt 64 q, []⟩ :: s.responses }

/-- R91: an identifier above 40 is NORESULT and reads nothing; 40 is decoded. -/
def Obligations.DecodeOutsideTheTableIsNoResult : Prop :=
  ∀ (s : State) (id : Nat), s.cfg.wellFormed = true →
    (41 ≤ id → ∀ fs : FrameFile, exec (.decode id) { s with fs := fs } =
      .next { s with fs := fs, responses := ⟨.noResult, 0#64, []⟩ :: s.responses }) ∧
    (id ≤ 40 → ∃ q : Data, exec (.decode id) s = .next { s with responses := ⟨.ok, q, []⟩ :: s.responses })

/-- R96: the bounds of the five lines, and that DATA never overflows. -/
def Obligations.ScalerStaysInsideItsBounds : Prop :=
  ∀ (d : DescEntry) (w : Halfword), d.wellFormed = true →
    let raw := rawOf d w
    let t1 := raw + d.pre
    let t2 := t1 * d.mul
    let t3 := t2 * 1000
    let t4 := tdiv t3 d.div
    let q := scale d raw
    |t1| ≤ 98302 ∧ |t2| ≤ 3221159936 ∧ |t3| ≤ 3221159936000 ∧ |t4| ≤ |t3| ∧ |1000 * d.post| ≤ 32768000 ∧
      q = t4 + 1000 * d.post ∧ |q| ≤ 3221192704000 ∧ |q| < 2 ^ 42 ∧ (BitVec.ofInt 64 q).toInt = q

/-- R97: when the scaled integer is exactly the value in thousandths, how far from it it is otherwise, and that every
scale the document lists is exact. -/
def Obligations.ScalerIsExactIffTheDivisionIs : Prop :=
  (∀ (d : DescEntry) (raw : Int), d.wellFormed = true →
    (((scale d raw : Int) : Rat) = 1000 * value d raw ↔ d.div ∣ (raw + d.pre) * d.mul * 1000) ∧
    (d.div ∣ 1000 * d.mul → ((scale d raw : Int) : Rat) = 1000 * value d raw) ∧
    |((scale d raw : Int) : Rat) - 1000 * value d raw| < 1 ∧
    scale d raw = Int.tdiv ((raw + d.pre) * d.mul * 1000) d.div + 1000 * d.post) ∧
  (∀ mulDiv ∈ [((1 : Int), (1 : Int)), (1, 10), (1, 100), (1, 1000), (5, 1), (-1, 10)],
    mulDiv.2 ∣ 1000 * mulDiv.1) ∧ ¬((3 : Int) ∣ 1000 * 1)

/-- An exact configuration decodes every raw value to exactly its value in thousandths (R97). -/
def Obligations.ExactConfigurationDecodesExactly : Prop :=
  ∀ (s : State) (id : Nat) (d : DescEntry), s.cfg.wellFormed = true → s.cfg.exact = true →
    s.cfg.desc[id]? = some d →
    ∃ (w : Halfword) (q : Int), memRead2 s.fs (8 * d.slot + d.off) = some w ∧
      ((q : Int) : Rat) = 1000 * value d (rawOf d w) ∧ (BitVec.ofInt 64 q).toInt = q ∧
      exec (.decode id) s = .next { s with responses := ⟨.ok, BitVec.ofInt 64 q, []⟩ :: s.responses }

/-- R98: the sign and the size of the remainder, the four examples, and that a well-formed divisor is positive. -/
def Obligations.DivisionTruncatesTowardZero : Prop :=
  (∀ n d : Int, 0 < d →
    |n - d * tdiv n d| < d ∧ (n - d * tdiv n d = 0 ∨ (n - d * tdiv n d).sign = n.sign) ∧
    tdiv 0 d = 0 ∧ tdiv n 1 = n) ∧
  tdiv 7 2 = 3 ∧ tdiv (-7) 2 = -3 ∧ ∀ d : DescEntry, d.wellFormed = true → 0 < d.div

/-- R99: a slot of zero bytes decodes as zero bytes, with status OK. -/
def Obligations.ZeroSlotDecodesWithStatusOk : Prop :=
  ∀ (s : State) (id : Nat) (d : DescEntry), s.cfg.wellFormed = true → s.cfg.desc[id]? = some d →
    s.fs[d.slot]? = some 0#64 →
    exec (.decode id) s = .next { s with responses :=
      ⟨.ok, BitVec.ofInt 64 (Int.tdiv (d.pre * d.mul * 1000) d.div + 1000 * d.post), []⟩ :: s.responses }

/-- R100: DECODE writes nothing, twice is the same, and its response depends on `FS` through its two bytes only: an
INGEST that is rejected or goes to another slot does not change it. -/
def Obligations.DecodeDependsOnItsTwoBytesOnly : Prop :=
  ∀ (s : State) (id : Nat), s.cfg.wellFormed = true →
    (∃ t, exec (.decode id) s = .next t ∧ t.fs = s.fs ∧
      answered (exec (.decode id) t) = answered (exec (.decode id) s)) ∧
    (∀ s' : State, s'.cfg = s.cfg →
      (∀ d, s.cfg.desc[id]? = some d →
        memByte s'.fs (8 * d.slot + d.off) = memByte s.fs (8 * d.slot + d.off) ∧
        memByte s'.fs (8 * d.slot + d.off + 1) = memByte s.fs (8 * d.slot + d.off + 1)) →
      answered (exec (.decode id) s') = answered (exec (.decode id) s)) ∧
    ∀ (f : Frame) (t : State), exec (.ingest f) s = .next t →
      (malformed f = true ∨ ∀ d, s.cfg.desc[id]? = some d → d.slot ≠ sidOf f) →
      answered (exec (.decode id) t) = answered (exec (.decode id) s)

/-- R101: the corner cases of the scaler. -/
def Obligations.ScalerCornerCases : Prop :=
  let e : DescEntry := { slot := 0, off := 2, signed := true, pre := 0, mul := 1, div := 1, post := 0 }
  let q (d : DescEntry) (w : Halfword) : Int := scale d (rawOf d w)
  q e 0x8000#16 = -32768000 ∧ q e 0xFFFF#16 = -1000 ∧ q { e with signed := false } 0xFFFF#16 = 65535000 ∧
  (∀ (post : Int) (w : Halfword), q { e with mul := 0, post := post } w = 1000 * post) ∧
  q { e with mul := -1, div := 10 } 0x8000#16 = 3276800 ∧ q { e with mul := 5 } 0x7FFF#16 = 163835000 ∧
  (∀ w : Halfword, q { e with pre := -1000, div := 10 } w = q { e with div := 10, post := -100 } w) ∧
  q { e with div := 3 } 0xFFFF#16 = -333 ∧ q { e with div := 3 } 0x0001#16 = 333

/-- The pinned entries (R26) of every well-formed configuration: the three words of slot 7 decode as signed integers,
and the coolant temperature is its raw value less 50 (the coolant entry as log 8 reads it). The identity scale of
P_TRIG1ERR and P_FAULT is the spec's own inference and not the document's statement: "the document states the scale
and bias only for fuel pressure, so for these two it is an inference from one data point each" (R26, D10; log 11). -/
def Obligations.PinnedParametersDecodeAsStated : Prop :=
  ∀ (s : State) (v : Frame), s.cfg.wellFormed = true → s.fs[7]? = some v →
    (∀ pin ∈ [(s.cfg.pTrig1Err, v.extractLsb' 16 16), (s.cfg.pFault, v.extractLsb' 32 16),
        (s.cfg.pFuelPress, v.extractLsb' 48 16)],
      exec (.decode pin.1) s =
        .next { s with responses := ⟨.ok, BitVec.ofInt 64 (1000 * pin.2.toInt), []⟩ :: s.responses }) ∧
    ∃ (d : DescEntry) (w : Halfword), s.cfg.desc[s.cfg.pCoolant]? = some d ∧
      memRead2 s.fs (8 * d.slot + d.off) = some w ∧
      exec (.decode s.cfg.pCoolant) s =
        .next { s with responses := ⟨.ok, BitVec.ofInt 64 (1000 * (w.toInt - 50)), []⟩ :: s.responses }

/-! ### LIMITFLAG and FEATSTAT (R110 to R118) -/

/-- R110 and R112: the encoding, the range, the bit. -/
def Obligations.LimitFlagAnswersItsBit : Prop :=
  ∀ (s : State) (id : Nat), s.cfg.wellFormed = true →
    (id < 65536 → decode (0x03#8 ++ (0#48 ++ BitVec.ofNat 16 id)) = .ok (.limitFlag id)) ∧
    (16 ≤ id → exec (.limitFlag id) s = .next { s with responses := ⟨.noResult, 0#64, []⟩ :: s.responses }) ∧
    (id < 16 → ∃ (d : DescEntry) (lo hi : Byte), s.cfg.desc[s.cfg.pLimits]? = some d ∧
      memByte s.fs (8 * d.slot + d.off) = some lo ∧ memByte s.fs (8 * d.slot + d.off + 1) = some hi ∧
      exec (.limitFlag id) s = .next { s with responses :=
        ⟨.ok, if (hi ++ lo).getLsbD id then 1#64 else 0#64, []⟩ :: s.responses })

/-- R113 and R116: the encoding, the range, the four slices `w[7:5]`, `w[4:3]`, `w[2:0]`, `w[14:12]`. -/
def Obligations.FeatStatAnswersItsField : Prop :=
  ∀ (s : State) (id : Nat), s.cfg.wellFormed = true →
    (id < 65536 → decode (0x04#8 ++ (0#48 ++ BitVec.ofNat 16 id)) = .ok (.featStat id)) ∧
    (4 ≤ id → exec (.featStat id) s = .next { s with responses := ⟨.noResult, 0#64, []⟩ :: s.responses }) ∧
    ∃ (d : DescEntry) (lo hi : Byte), s.cfg.desc[s.cfg.pStatus]? = some d ∧
      memByte s.fs (8 * d.slot + d.off) = some lo ∧ memByte s.fs (8 * d.slot + d.off + 1) = some hi ∧
      let w : BitVec 16 := hi ++ lo
      ∀ field ∈ [(0, (w.extractLsb' 5 3).setWidth 64), (1, (w.extractLsb' 3 2).setWidth 64),
          (2, (w.extractLsb' 0 3).setWidth 64), (3, (w.extractLsb' 12 3).setWidth 64)],
        exec (.featStat field.1) s = .next { s with responses := ⟨.ok, field.2, []⟩ :: s.responses }

/-- R111: the bit-field word is the decoded value modulo 65536, which is an integer. -/
def Obligations.BitFieldWordIsTheValueModulo65536 : Prop :=
  ∀ (s : State) (p : Nat), s.cfg.wellFormed = true → p = s.cfg.pLimits ∨ p = s.cfg.pStatus →
    ∃ (d : DescEntry) (w : Halfword) (v : Int), s.cfg.desc[p]? = some d ∧
      memRead2 s.fs (8 * d.slot + d.off) = some w ∧
      (∀ run : Halfword → Result, bitFieldWord p s run = run w) ∧ value d (rawOf d w) = (v : Rat) ∧
      (w.toNat : Int) = v % 65536

/-- R115: bits 8 to 11 and 15 of the status word change no FEATSTAT response; every bit of the limit-flags word shows
in one LIMITFLAG response; and both words can be read whole through DECODE. -/
def Obligations.StatusBitsOutsideTheFieldsHaveNoEffect : Prop :=
  ∀ (s s' : State) (d e : DescEntry) (w w' x x' : Halfword), s.cfg.wellFormed = true → s'.cfg = s.cfg →
    s.cfg.desc[s.cfg.pStatus]? = some d → s.cfg.desc[s.cfg.pLimits]? = some e →
    memRead2 s.fs (8 * d.slot + d.off) = some w → memRead2 s'.fs (8 * d.slot + d.off) = some w' →
    memRead2 s.fs (8 * e.slot + e.off) = some x → memRead2 s'.fs (8 * e.slot + e.off) = some x' →
    (w &&& 0x70FF#16 = w' &&& 0x70FF#16 →
      ∀ id, answered (exec (.featStat id) s') = answered (exec (.featStat id) s)) ∧
    ((∀ id < 16, answered (exec (.limitFlag id) s') = answered (exec (.limitFlag id) s)) → x = x') ∧
    (answered (exec (.decode s.cfg.pStatus) s') = answered (exec (.decode s.cfg.pStatus) s) → w = w') ∧
    (answered (exec (.decode s.cfg.pLimits) s') = answered (exec (.decode s.cfg.pLimits) s) → x = x')

/-- R117: both commands write nothing and depend on `FS` through the two bytes of their word only. -/
def Obligations.BitFieldCommandsDependOnTheirWordOnly : Prop :=
  ∀ (s s' : State) (id : Nat), s.cfg.wellFormed = true → s'.cfg = s.cfg →
    (∀ t, exec (.limitFlag id) s = .next t ∨ exec (.featStat id) s = .next t → t.fs = s.fs) ∧
    ((∀ d, s.cfg.desc[s.cfg.pLimits]? = some d →
        memRead2 s'.fs (8 * d.slot + d.off) = memRead2 s.fs (8 * d.slot + d.off)) →
      answered (exec (.limitFlag id) s') = answered (exec (.limitFlag id) s)) ∧
    ((∀ d, s.cfg.desc[s.cfg.pStatus]? = some d →
        memRead2 s'.fs (8 * d.slot + d.off) = memRead2 s.fs (8 * d.slot + d.off)) →
      answered (exec (.featStat id) s') = answered (exec (.featStat id) s))

/-- R118: the corner cases of the two words. -/
def Obligations.BitFieldCornerCases : Prop :=
  (∀ id < 16, limitBit 0x8000#16 id = if id = 15 then 1#64 else 0#64) ∧
  (∀ id < 16, limitBit 0xFFFF#16 id = 1#64 ∧ limitBit 0x0000#16 id = 0#64) ∧
  scale (DescEntry.identity 0 2) (rawOf (DescEntry.identity 0 2) 0x8000#16) = -32768000 ∧
  (let fields (w : Halfword) : List Data := fsLut.toList.map fun field => featureField w field.1 field.2
   fields 0x30F5#16 = [7#64, 2#64, 5#64, 3#64] ∧ fields 0x8F00#16 = [0#64, 0#64, 0#64, 0#64] ∧
   fields 0xFFFF#16 = [7#64, 3#64, 7#64, 7#64])

/-! ### The catalog lookups (R125 to R132) -/

/-- R125, R126, R130, R131: the encodings; the string as it stands and its length; NORESULT outside the table. The
bounds of R29 are a premise of the model's own (log 9), and they count a byte as a character (log 18). -/
def Obligations.StringLookupsAnswerTheEntry : Prop :=
  ∀ (s : State) (id : Nat), s.cfg.wellFormed = true →
    let noResult : Result := .next { s with responses := ⟨.noResult, 0#64, []⟩ :: s.responses }
    (id < 65536 → ∀ row ∈ [(0x05#8, Instr.pName), (0x06#8, Instr.pUnit), (0x0A#8, Instr.lfName),
        (0x0B#8, Instr.faultDesc)], decode (row.1 ++ (0#48 ++ BitVec.ofNat 16 id)) = .ok (row.2 id)) ∧
    (∀ h : id < 41,
      exec (.pName id) s = .next { s with responses :=
        ⟨.ok, BitVec.ofNat 64 s.cfg.metaTable[id].name.length, s.cfg.metaTable[id].name⟩ :: s.responses } ∧
      exec (.pUnit id) s = .next { s with responses :=
        ⟨.ok, BitVec.ofNat 64 s.cfg.metaTable[id].unit.length, s.cfg.metaTable[id].unit⟩ :: s.responses } ∧
      (s.cfg.catalogBounded = true → s.cfg.metaTable[id].name.length ≤ 23 ∧ s.cfg.metaTable[id].unit.length ≤ 7)) ∧
    (∀ h : id < 16, exec (.lfName id) s = .next { s with responses :=
      ⟨.ok, BitVec.ofNat 64 s.cfg.lfNameRom[id].length, s.cfg.lfNameRom[id]⟩ :: s.responses }) ∧
    (∀ h : id < 124, exec (.faultDesc id) s = .next { s with responses :=
      ⟨.ok, BitVec.ofNat 64 s.cfg.faultRom[id].length, s.cfg.faultRom[id]⟩ :: s.responses }) ∧
    (41 ≤ id → exec (.pName id) s = noResult ∧ exec (.pUnit id) s = noResult) ∧
    (16 ≤ id → exec (.lfName id) s = noResult) ∧ (124 ≤ id → exec (.faultDesc id) s = noResult)

/-- R127, R128, R129: the encodings; the integer, sign-extended to 64 bits; NORESULT outside the table; and DECODE
answers the same whatever MIN and MAX are. -/
def Obligations.NumberLookupsAnswerTheEntrySignExtended : Prop :=
  ∀ (s : State) (id : Nat), s.cfg.wellFormed = true →
    let noResult : Result := .next { s with responses := ⟨.noResult, 0#64, []⟩ :: s.responses }
    (id < 65536 → ∀ row ∈ [(0x07#8, Instr.pDec), (0x08#8, Instr.pMin), (0x09#8, Instr.pMax)],
      decode (row.1 ++ (0#48 ++ BitVec.ofNat 16 id)) = .ok (row.2 id)) ∧
    (∀ h : id < 41,
      exec (.pDec id) s = .next { s with responses :=
        ⟨.ok, s.cfg.metaTable[id].decimals.signExtend 64, []⟩ :: s.responses } ∧
      exec (.pMin id) s = .next { s with responses :=
        ⟨.ok, s.cfg.metaTable[id].min.signExtend 64, []⟩ :: s.responses } ∧
      exec (.pMax id) s = .next { s with responses :=
        ⟨.ok, s.cfg.metaTable[id].max.signExtend 64, []⟩ :: s.responses }) ∧
    (41 ≤ id → exec (.pDec id) s = noResult ∧ exec (.pMin id) s = noResult ∧ exec (.pMax id) s = noResult) ∧
    ∀ table : Vector MetaEntry 41,
      answered (exec (.decode id) { s with cfg := { s.cfg with metaTable := table } }) = answered (exec (.decode id) s)

/-- The lookups neither read nor write the frame register file (R40): their answer is the same whatever it holds. -/
def Obligations.LookupsDoNotTouchTheFrameFile : Prop :=
  ∀ (s : State) (fs : FrameFile) (id : Nat),
    ∀ i ∈ [Instr.pName id, .pUnit id, .pDec id, .pMin id, .pMax id, .lfName id, .faultDesc id],
      answered (exec i { s with fs := fs }) = answered (exec i s) ∧ ∀ t, exec i s = .next t → t.fs = s.fs

/-! ### Whole-machine rules -/

/-- The frame of every command but INGEST (R22): no register, no byte, no table, no pending event and no earlier
response changes. -/
def Obligations.OtherCommandsChangeNothingButTheResponse : Prop :=
  ∀ (i : Instr) (s t : State), (∀ f, i ≠ .ingest f) → exec i s = .next t →
    t.fs = s.fs ∧ (∀ a, memByte t.fs a = memByte s.fs a) ∧ t.cfg = s.cfg ∧ t.host = s.host ∧
      ∃ r, t.responses = r :: s.responses

/-- R22: a slot changes only by reset, which zeroes it, or by an INGEST whose frame names it and has a zero reserved
byte, and then it holds exactly that frame. -/
def Obligations.SlotChangesOnlyByResetOrItsOwnFrame : Prop :=
  ∀ (s t : State) (slot : Nat), step s = .next t → t.fs[slot]? ≠ s.fs[slot]? →
    (∃ rest, s.host = .reset :: rest ∧ t.fs[slot]? = some 0#64) ∨
    ∃ (f : Frame) (rest : List HostEvent), s.host = .command (0x01#8 ++ f) :: rest ∧
      (f.extractLsb' 0 8).toNat = slot ∧ f.extractLsb' 8 8 = 0#8 ∧ t.fs[slot]? = some f

/-- R32: no command, and no reset, changes the configuration. -/
def Obligations.ConfigurationNeverChanges : Prop :=
  ∀ (s t : State), (step s = .next t → t.cfg = s.cfg) ∧ ∀ i, exec i s = .next t → t.cfg = s.cfg

/-- R140: a failure has DATA 0 and no string, and changes no state. -/
def Obligations.FailureHasZeroDataAndChangesNothing : Prop :=
  ∀ (s t : State) (w : CmdWord) (rest : List HostEvent) (r : Response), s.host = .command w :: rest →
    step s = .next t → t.responses = r :: s.responses → r.status ≠ .ok →
    r = ⟨r.status, 0#64, []⟩ ∧ t.fs = s.fs ∧ t.cfg = s.cfg ∧ t.host = rest

/-- R145 and R141: which failure a legal command can have. -/
def Obligations.EachCommandHasOneFailureStatus : Prop :=
  ∀ (i : Instr) (s t : State) (r : Response), exec i s = .next t → t.responses = r :: s.responses →
    r.status = .ok ∨ r.status = (match i with
      | .ingest _ => .reject
      | _ => .noResult)

/-- R147: a failed command leaves no trace. Whatever command follows gives the response and the registers it would
have given without it. -/
def Obligations.FailedCommandIsInvisibleToTheNext : Prop :=
  ∀ (i j : Instr) (s t : State) (r : Response), exec i s = .next t → t.responses = r :: s.responses →
    r.status ≠ .ok →
    answered (exec j t) = answered (exec j s) ∧
      (nextState? (exec j t)).map State.fs = (nextState? (exec j s)).map State.fs

/-- R34 and R36: a command depends on the configuration and the registers alone; what was answered before and what
the host will do next changes neither its response nor the registers it leaves. -/
def Obligations.CommandDependsOnConfigurationAndRegistersOnly : Prop :=
  ∀ (i : Instr) (s : State), s.cfg.wellFormed = true →
    ∃ (r : Response) (fs : FrameFile), ∀ (host : List HostEvent) (responses : List Response),
      exec i { s with host := host, responses := responses } =
        .next { s with fs := fs, host := host, responses := r :: responses }

/-- R38 as an invariant of every step, from every state that meets it. -/
def Obligations.StepKeepsTheSlotInvariant : Prop :=
  ∀ s t : State, Inv s → step s = .next t → Inv t

/-- R48, over every state and every sequence of host events: when all of them have been taken, each slot holds what
the latest write to it left, and each command has been answered once. -/
def Obligations.EachSlotHoldsItsLatestWrite : Prop :=
  ∀ s : State, s.cfg.wellFormed = true →
    ∃ t : State, Host.Core.run Sys2Proof.core s.host.length s = .next t ∧ t.host = [] ∧ t.cfg = s.cfg ∧
      (∀ (slot : Nat) (v : Frame), s.fs[slot]? = some v →
        t.fs[slot]? = some ((latestWrite slot s.host).getD v)) ∧
      t.responses.length = s.responses.length + commandCount s.host ∧ s.responses <:+ t.responses

/-! ### The byte view (R40 to R44) -/

/-- R42 and R43: the two-byte read at `8 * SLOT + OFF` is the slice of one register, and its value is the lower byte
plus 256 times the higher one. -/
def Obligations.WordReadIsLittleEndianAndInsideOneSlot : Prop :=
  ∀ (fs : FrameFile) (slot : Fin 14), ∀ off ∈ [2, 4, 6],
    ∃ (lo hi : Byte) (w : Halfword), memByte fs (8 * slot + off) = some lo ∧
      memByte fs (8 * slot + off + 1) = some hi ∧ memRead2 fs (8 * slot + off) = some w ∧
      w = fs[slot].extractLsb' (8 * off) 16 ∧ w.toNat = lo.toNat + 256 * hi.toNat

/-- R40 and R46: the 112 bytes are the bytes of the registers, and there is no other address. -/
def Obligations.AddressSpaceIsTheBytesOfTheRegisters : Prop :=
  ∀ (fs : FrameFile) (a : Nat),
    (a < 112 → ∃ v, fs[a / 8]? = some v ∧ memByte fs a = some (v.extractLsb' (8 * (a % 8)) 8)) ∧
    (112 ≤ a → memByte fs a = none)

/-- The cell list is in its canonical form and says exactly what the registers say, so equal lists are equal
registers. -/
def Obligations.CellListIsCanonicalAndFaithful : Prop :=
  (∀ fs : FrameFile, Memory.wf (cells fs) ∧ ∀ a < 112, memByte fs a = some (cellsRead (cells fs) a)) ∧
  ∀ fs gs : FrameFile, cells fs = cells gs → fs = gs
end

