-- ==== Sys2Proof/Laws/Config.lean ====
section
/-! SUPPORT. What a well-formed configuration has (R24). -/

namespace Sys2Proof

/-- W1 to W4 as propositions. -/
theorem DescEntry.wellFormed_iff (d : DescEntry) : d.wellFormed = true ↔
    d.slot < NSLOT ∧ (d.off = 2 ∨ d.off = 4 ∨ d.off = 6) ∧ (1 ≤ d.div ∧ d.div ≤ 32767) ∧
      (-32768 ≤ d.pre ∧ d.pre ≤ 32767) ∧ (-32768 ≤ d.mul ∧ d.mul ≤ 32767) ∧
      (-32768 ≤ d.post ∧ d.post ≤ 32767) := by
  simp [DescEntry.wellFormed, int16Range, and_assoc, or_assoc]

/-- The fields of an identity-scaled entry (R27). -/
theorem DescEntry.identityScaled_iff (d : DescEntry) : d.identityScaled = true ↔
    d.pre = 0 ∧ d.mul = 1 ∧ d.div = 1 ∧ d.post = 0 := by
  simp [DescEntry.identityScaled, and_assoc]

theorem DescEntry.slot7At_iff (off : Nat) (d : DescEntry) : d.slot7At off = true ↔
    d.slot = 7 ∧ d.off = off ∧ d.signed = true ∧ d.identityScaled = true := by
  simp [DescEntry.slot7At, and_assoc]

theorem DescEntry.coolant_iff (d : DescEntry) : d.coolant = true ↔
    d.signed = true ∧ d.mul = 1 ∧ d.div = 1 ∧ d.pre + d.post = -50 := by
  simp [DescEntry.coolant, and_assoc]

theorem Config.entryIs_iff (c : Config) (p : Nat) (check : DescEntry → Bool) :
    c.entryIs p check = true ↔ ∃ d, c.desc[p]? = some d ∧ check d = true := by
  unfold Config.entryIs
  split <;> simp_all

/-- Every entry of a well-formed configuration is well-formed. -/
theorem Config.wellFormed_entry {c : Config} {p : Nat} {d : DescEntry} (h : c.wellFormed = true)
    (hd : c.desc[p]? = some d) : d.wellFormed = true := by
  simp only [Config.wellFormed, Bool.and_eq_true, List.all_eq_true] at h
  exact h.1.1 d (Vector.mem_toList_iff.mpr (Vector.mem_of_getElem? hd))

/-- Where an entry can carry a bias: before the scale in raw counts, or in scaled units. -/
theorem DescEntry.hasBias_iff (d : DescEntry) (k : Int) : d.hasBias k = true ↔
    (d.pre = k ∧ d.post = 0) ∨ d.pre * d.mul + d.post * d.div = k * d.div := by
  simp [DescEntry.hasBias]

theorem DescEntry.hasScale_iff (d : DescEntry) (r : Int × Int) : d.hasScale r = true ↔ d.mul = r.1 ∧ d.div = r.2 := by
  simp [DescEntry.hasScale]

/-- Every scale the document lists is exact, so a table of such scales is (R25, R97). -/
theorem Config.exact_of_scalesListed {c : Config} (h : c.scalesListed = true) : c.exact = true := by
  simp only [Config.scalesListed, List.all_eq_true, List.any_eq_true, DescEntry.hasScale_iff] at h
  simp only [Config.exact, List.all_eq_true, DescEntry.exact, beq_iff_eq]
  intro d hd
  obtain ⟨r, hr, hm, hv⟩ := h d hd
  rw [hm, hv]
  exact (by decide : ∀ r ∈ documentScales, (QSCALE * r.1) % r.2 = 0) r hr

/-- The entry P_COOLANT of a well-formed configuration has the bias -50, however it is spelt (log 8). -/
theorem DescEntry.coolant_hasBias {d : DescEntry} (h : d.coolant = true) : d.hasBias (-50) = true := by
  obtain ⟨-, hm, hv, hb⟩ := (DescEntry.coolant_iff d).mp h
  exact (DescEntry.hasBias_iff d _).mpr (.inr (by rw [hm, hv]; omega))

/-- W5 of R24. -/
theorem Config.wellFormed_bitFields {c : Config} (h : c.wellFormed = true) :
    c.pLimits ≠ c.pStatus ∧ (∃ d, c.desc[c.pLimits]? = some d ∧ d.identityScaled = true) ∧
      ∃ d, c.desc[c.pStatus]? = some d ∧ d.identityScaled = true := by
  simp only [Config.wellFormed, Bool.and_eq_true, Config.entryIs_iff] at h
  exact ⟨by simpa using h.1.2.1.1, h.1.2.1.2, h.1.2.2⟩

/-- W6 of R24. -/
theorem Config.wellFormed_pinned {c : Config} (h : c.wellFormed = true) :
    (∃ d, c.desc[c.pTrig1Err]? = some d ∧ d.slot7At 2 = true) ∧
      (∃ d, c.desc[c.pFault]? = some d ∧ d.slot7At 4 = true) ∧
      (∃ d, c.desc[c.pFuelPress]? = some d ∧ d.slot7At 6 = true) ∧
      ∃ d, c.desc[c.pCoolant]? = some d ∧ d.coolant = true := by
  simp only [Config.wellFormed, Bool.and_eq_true, Config.entryIs_iff] at h
  exact ⟨h.2.1.1.1, h.2.1.1.2, h.2.1.2, h.2.2⟩

end Sys2Proof
end

