-- ==== Sys2Proof/Laws/Decode.lean ====
section
/-! SUPPORT. The fields of an encoded word, and a word put together from its fields. -/

namespace Sys2Proof

@[simp] theorem opcode_encodeFormatF (op : BitVec 8) (f : Frame) : CmdWord.opcode (encodeFormatF op f) = op :=
  BitVec.extractLsb'_append_eq_left

@[simp] theorem arg_encodeFormatF (op : BitVec 8) (f : Frame) : CmdWord.arg (encodeFormatF op f) = f :=
  BitVec.extractLsb'_append_eq_right

@[simp] theorem opcode_encodeFormatI (op : BitVec 8) (id : Nat) : CmdWord.opcode (encodeFormatI op id) = op :=
  BitVec.extractLsb'_append_eq_left

/-- The bits of a format-I word (R60). -/
theorem getLsbD_encodeFormatI (op : BitVec 8) (id i : Nat) : (encodeFormatI op id).getLsbD i =
    if i < 16 then (BitVec.ofNat 16 id).getLsbD i else if i < 64 then false else op.getLsbD (i - 64) := by
  show (op ++ (0#48 ++ BitVec.ofNat 16 id)).getLsbD i = _
  rw [BitVec.getLsbD_append, BitVec.getLsbD_append, BitVec.getLsbD_zero]
  by_cases h16 : i < 16
  · simp [h16, show i < 48 + 16 by omega]
  · simp [h16]

/-- The reserved bits of format I are zero (R60). -/
@[simp] theorem reserved_encodeFormatI (op : BitVec 8) (id : Nat) : CmdWord.reserved (encodeFormatI op id) = 0 := by
  apply BitVec.eq_of_getLsbD_eq
  intro i hi
  rw [CmdWord.reserved, BitVec.getLsbD_extractLsb', getLsbD_encodeFormatI, if_neg (by omega), if_pos (by omega)]
  simp

/-- The identifier field reads back (R60). -/
theorem ident_encodeFormatI (op : BitVec 8) {id : Nat} (h : id < 2 ^ 16) :
    CmdWord.ident (encodeFormatI op id) = id := by
  have hx : (encodeFormatI op id).extractLsb' 0 16 = BitVec.ofNat 16 id := by
    apply BitVec.eq_of_getLsbD_eq
    intro i hi
    rw [BitVec.getLsbD_extractLsb', getLsbD_encodeFormatI, if_pos (by omega)]
    simp [hi]
  rw [CmdWord.ident, hx, BitVec.toNat_ofNat, Nat.mod_eq_of_lt h]

/-- A word is its opcode above its argument (R60). -/
theorem encodeFormatF_fields (w : CmdWord) : encodeFormatF (CmdWord.opcode w) (CmdWord.arg w) = w := by
  apply BitVec.eq_of_getLsbD_eq
  intro i hi
  rw [encodeFormatF, BitVec.getLsbD_append]
  by_cases h : i < 64
  · simp [h, CmdWord.arg]
  · have h8 : i - 64 < 8 := by omega
    have h64 : 64 + (i - 64) = i := by omega
    simp [h, CmdWord.opcode, h8, h64]

/-- A word whose reserved bits are zero is a format-I word (R60). -/
theorem encodeFormatI_fields {w : CmdWord} (h : CmdWord.reserved w = 0) :
    encodeFormatI (CmdWord.opcode w) (CmdWord.ident w) = w := by
  apply BitVec.eq_of_getLsbD_eq
  intro i hi
  rw [getLsbD_encodeFormatI, CmdWord.ident, BitVec.ofNat_toNat, BitVec.setWidth_eq]
  split
  · simp [*]
  · split
    · have hr := congrArg (fun v => v.getLsbD (i - 16)) h
      simp only [CmdWord.reserved, BitVec.getLsbD_extractLsb', show 16 + (i - 16) = i by omega] at hr
      rw [decide_eq_true (show i - 16 < 48 by omega), Bool.true_and] at hr
      simpa using hr.symm
    · rw [CmdWord.opcode, BitVec.getLsbD_extractLsb', show 64 + (i - 64) = i by omega]
      simp [show i - 64 < 8 by omega]

theorem ident_lt (w : CmdWord) : CmdWord.ident w < 2 ^ 16 := BitVec.isLt _

/-- Format I accepts exactly the words whose reserved bits are zero (R67). -/
theorem decodeFormatI_ok {w : CmdWord} {mk : Nat → Instr} {i : Instr} :
    decodeFormatI w mk = .ok i ↔ CmdWord.reserved w = 0 ∧ i = mk (CmdWord.ident w) := by
  unfold decodeFormatI
  split <;> simp_all [eq_comm]

theorem decodeFormatI_error {w : CmdWord} {mk : Nat → Instr} {why : IllegalWord} :
    decodeFormatI w mk = .error why ↔ CmdWord.reserved w ≠ 0 ∧ why = .reservedBits := by
  unfold decodeFormatI
  split <;> simp_all [eq_comm]

/-- Two concatenations of the same widths are equal when their parts are. -/
theorem append_eq_append_iff {n m : Nat} {a c : BitVec n} {b d : BitVec m} : a ++ b = c ++ d ↔ a = c ∧ b = d := by
  constructor
  · intro h
    have hl := congrArg (fun v => v.extractLsb' m n) h
    have hr := congrArg (fun v => v.extractLsb' 0 m) h
    simp only [BitVec.extractLsb'_append_eq_left, BitVec.extractLsb'_append_eq_right] at hl hr
    exact ⟨hl, hr⟩
  · rintro ⟨rfl, rfl⟩
    rfl

/-- A word is its opcode, its reserved field and its identifier field (R60). -/
theorem word_fields (w : CmdWord) :
    w = CmdWord.opcode w ++ (CmdWord.reserved w ++ w.extractLsb' 0 16) := by
  have ha : CmdWord.reserved w ++ w.extractLsb' 0 16 = CmdWord.arg w :=
    BitVec.extractLsb'_append_extractLsb'_eq_extractLsb' rfl
  rw [ha]
  exact (encodeFormatF_fields w).symm

/-- A word under the mask of format F keeps its opcode (R61). -/
theorem and_maskF (w : CmdWord) : w &&& 0xFF0000000000000000#72 = CmdWord.opcode w ++ 0#64 := by
  conv_lhs => rw [← encodeFormatF_fields w]
  show (CmdWord.opcode w ++ CmdWord.arg w) &&& (BitVec.allOnes 8 ++ 0#64) = CmdWord.opcode w ++ 0#64
  rw [BitVec.and_append, BitVec.and_allOnes, BitVec.and_zero]

/-- A word under the mask of format I keeps its opcode and its reserved field (R61). -/
theorem and_maskI (w : CmdWord) :
    w &&& 0xFFFFFFFFFFFFFF0000#72 = CmdWord.opcode w ++ (CmdWord.reserved w ++ 0#16) := by
  conv_lhs => rw [word_fields w]
  show (_ ++ (_ ++ _)) &&& (BitVec.allOnes 8 ++ (BitVec.allOnes 48 ++ 0#16)) = _
  rw [BitVec.and_append, BitVec.and_append, BitVec.and_allOnes, BitVec.and_allOnes, BitVec.and_zero]

/-- The opcodes of format I (R61). -/
def formatIRows : List (BitVec 8 × (Nat → Instr)) :=
  [(0x02#8, .decode), (0x03#8, .limitFlag), (0x04#8, .featStat), (0x05#8, .pName), (0x06#8, .pUnit), (0x07#8, .pDec),
    (0x08#8, .pMin), (0x09#8, .pMax), (0x0A#8, .lfName), (0x0B#8, .faultDesc)]

/-- The decoder on an opcode of format I. -/
theorem decode_formatI_row {row : BitVec 8 × (Nat → Instr)} (hrow : row ∈ formatIRows) {w : CmdWord}
    (ho : CmdWord.opcode w = row.1) : decode w = decodeFormatI w row.2 := by
  simp only [formatIRows, List.mem_cons, List.not_mem_nil, or_false] at hrow
  rcases hrow with rfl | rfl | rfl | rfl | rfl | rfl | rfl | rfl | rfl | rfl <;> simp [decode, ho]

/-- The decoder on the opcode of format F. -/
theorem decode_formatF {w : CmdWord} (ho : CmdWord.opcode w = 0x01#8) :
    decode w = .ok (.ingest (CmdWord.arg w)) := by simp [decode, ho]

/-- What a legal word is: an INGEST, or a row of format I with its reserved bits zero. -/
theorem decode_ok_cases {w : CmdWord} {i : Instr} (h : decode w = .ok i) :
    (CmdWord.opcode w = 0x01#8 ∧ i = .ingest (CmdWord.arg w)) ∨
      (CmdWord.reserved w = 0 ∧ ∃ row ∈ formatIRows, CmdWord.opcode w = row.1 ∧ i = row.2 (CmdWord.ident w)) := by
  unfold decode at h
  split at h <;> rename_i hop
  case h_1 => exact .inl ⟨BitVec.eq_of_toNat_eq hop, by simpa [eq_comm] using h⟩
  case h_12 => cases h
  all_goals
    rw [decodeFormatI_ok] at h
    refine .inr ⟨h.1, ?_⟩
    simp [formatIRows, ← BitVec.toNat_inj, hop, h.2]

/-- An INGEST is read from its own opcode only. -/
theorem decode_ingest_iff {w : CmdWord} {f : Frame} :
    decode w = .ok (.ingest f) ↔ CmdWord.opcode w = 0x01#8 ∧ f = CmdWord.arg w := by
  constructor
  · intro h
    obtain ⟨ho, hi⟩ | ⟨-, row, hrow, -, hi⟩ := decode_ok_cases h
    · exact ⟨ho, Instr.ingest.inj hi⟩
    · simp only [formatIRows, List.mem_cons, List.not_mem_nil, or_false] at hrow
      rcases hrow with rfl | rfl | rfl | rfl | rfl | rfl | rfl | rfl | rfl | rfl <;> cases hi
  · rintro ⟨ho, rfl⟩
    exact decode_formatF ho

/-- Which words the decoder refuses: the two clauses of R67. -/
theorem decode_error_iff (w : CmdWord) : (∃ why, decode w = .error why) ↔
    ((CmdWord.opcode w).toNat = 0 ∨ 0x0C ≤ (CmdWord.opcode w).toNat) ∨
      (0x02 ≤ (CmdWord.opcode w).toNat ∧ (CmdWord.opcode w).toNat ≤ 0x0B ∧ CmdWord.reserved w ≠ 0) := by
  unfold decode
  split <;> rename_i hop
  case h_1 => simp [hop]
  case h_12 =>
    refine ⟨fun _ => .inl ?_, fun _ => ⟨_, rfl⟩⟩
    by_contra hn
    have hlt : (CmdWord.opcode w).toNat < 12 := by omega
    generalize (CmdWord.opcode w).toNat = n at *
    interval_cases n <;> simp_all
  all_goals simp [hop, decodeFormatI_error]

end Sys2Proof
end

