-- ==== Sys2Proof/Laws/Scaler.lean ====
section
/-! SUPPORT. The arithmetic of the scaler. -/

namespace Sys2Proof.Machine

/-- For a positive divisor `tdiv` is the library's truncating division (R11). -/
theorem tdiv_eq (n : Int) {d : Int} (_ : 0 < d) : tdiv n d = Int.tdiv n d := by
  unfold tdiv
  split
  · exact (Int.tdiv_eq_ediv_of_nonneg ‹_›).symm
  · rw [← Int.neg_neg (Int.tdiv n d), ← Int.neg_tdiv, Int.tdiv_eq_ediv_of_nonneg (by omega)]

/-- The divisor of a well-formed entry is positive (W3 of R24). -/
theorem wellFormed_div_pos {d : DescEntry} (h : d.wellFormed = true) : 0 < d.div := by
  have := ((DescEntry.wellFormed_iff d).mp h).2.2.1.1
  omega

/-- The range of the raw integer (R93). -/
theorem rawOf_bounds (d : DescEntry) (w : Halfword) : -32768 ≤ rawOf d w ∧ rawOf d w ≤ 65535 := by
  unfold rawOf
  have h1 := BitVec.toInt_lt (x := w)
  have h2 := BitVec.le_toInt w
  have h3 := w.isLt
  split <;> omega

/-- Truncation does not enlarge (R96). -/
theorem abs_tdiv_le (n : Int) {d : Int} (h : 0 < d) : |tdiv n d| ≤ |n| := by
  unfold tdiv
  split
  · rename_i hn
    rw [abs_of_nonneg (Int.ediv_nonneg hn h.le), abs_of_nonneg hn]
    exact Int.ediv_le_self _ hn
  · rw [abs_neg, abs_of_nonneg (Int.ediv_nonneg (by omega) h.le), abs_of_neg (by omega)]
    exact Int.ediv_le_self _ (by omega)

/-- An identity-scaled entry gives the raw integer in thousandths (R27). -/
theorem scale_identity {d : DescEntry} (h : d.identityScaled = true) (raw : Int) : scale d raw = 1000 * raw := by
  obtain ⟨h1, h2, h3, h4⟩ := (DescEntry.identityScaled_iff d).mp h
  simp [scale, h1, h2, h3, h4, tdiv, Int.mul_comm]

/-- How far the scaled integer is from the rational value: the remainder of the division (R97). -/
theorem scale_sub_value (d : DescEntry) (raw : Int) (h : 0 < d.div) :
    ((scale d raw : Int) : Rat) - 1000 * value d raw =
      -((Int.tmod ((raw + d.pre) * d.mul * 1000) d.div : Int) : Rat) / d.div := by
  have hd : (d.div : Rat) ≠ 0 := by exact_mod_cast h.ne'
  have hsum := Int.tmod_add_mul_tdiv ((raw + d.pre) * d.mul * 1000) d.div
  have hmod : ((Int.tmod ((raw + d.pre) * d.mul * 1000) d.div : Int) : Rat) =
      ((raw + d.pre) * d.mul * 1000 : Int) - d.div * (Int.tdiv ((raw + d.pre) * d.mul * 1000) d.div : Int) := by
    rw [← Int.cast_mul, ← Int.cast_sub]
    congr 1
    omega
  simp only [scale, value, tdiv_eq _ h]
  rw [hmod]
  push_cast
  field_simp
  ring

end Sys2Proof.Machine
end

