-- ==== Sys2Proof/Laws/State.lean ====
section
/-! SUPPORT. One lemma per field and per update of the state. -/

namespace Sys2Proof.Machine

@[simp] theorem respond_fs (r : Response) (s : State) : (respond r s).fs = s.fs := rfl
@[simp] theorem respond_cfg (r : Response) (s : State) : (respond r s).cfg = s.cfg := rfl
@[simp] theorem respond_host (r : Response) (s : State) : (respond r s).host = s.host := rfl
@[simp] theorem respond_responses (r : Response) (s : State) : (respond r s).responses = r :: s.responses := rfl

@[simp] theorem setFs_fs (fs : FrameFile) (s : State) : (setFs fs s).fs = fs := rfl
@[simp] theorem setFs_cfg (fs : FrameFile) (s : State) : (setFs fs s).cfg = s.cfg := rfl
@[simp] theorem setFs_host (fs : FrameFile) (s : State) : (setFs fs s).host = s.host := rfl
@[simp] theorem setFs_responses (fs : FrameFile) (s : State) : (setFs fs s).responses = s.responses := rfl

@[simp] theorem issue_fs (e : HostEvent) (s : State) : (issue e s).fs = s.fs := rfl
@[simp] theorem issue_cfg (e : HostEvent) (s : State) : (issue e s).cfg = s.cfg := rfl
@[simp] theorem issue_host (e : HostEvent) (s : State) : (issue e s).host = e :: s.host := rfl
@[simp] theorem issue_responses (e : HostEvent) (s : State) : (issue e s).responses = s.responses := rfl

@[simp] theorem resetWith_fs (c : Config) : (State.resetWith c).fs = Vector.replicate NSLOT 0#64 := rfl
@[simp] theorem resetWith_cfg (c : Config) : (State.resetWith c).cfg = c := rfl
@[simp] theorem resetWith_host (c : Config) : (State.resetWith c).host = [] := rfl
@[simp] theorem resetWith_responses (c : Config) : (State.resetWith c).responses = [] := rfl

@[simp] theorem okData_status (d : Data) : (okData d).status = .ok := rfl
@[simp] theorem okData_data (d : Data) : (okData d).data = d := rfl
@[simp] theorem okData_str (d : Data) : (okData d).str = [] := rfl
@[simp] theorem failure_status (st : Status) : (failureResponse st).status = st := rfl
@[simp] theorem failure_data (st : Status) : (failureResponse st).data = 0#64 := rfl
@[simp] theorem failure_str (st : Status) : (failureResponse st).str = [] := rfl

theorem answer_eq (r : Response) (s : State) : answer r s = .next (respond r s) := rfl
theorem fail_eq (st : Status) (s : State) : fail st s = .next (respond (failureResponse st) s) := rfl

/-- Taking an event and issuing it undo each other. -/
@[simp] theorem takeEvent_issue (e : HostEvent) (s : State) : takeEvent (issue e s) = some (e, s) := rfl

/-- A state with an event waiting is one in which it was issued. -/
theorem eq_issue {s : State} {e : HostEvent} {rest : List HostEvent} (h : s.host = e :: rest) :
    s = issue e { s with host := rest } := by
  obtain ⟨fs, cfg, host, responses⟩ := s
  exact congrArg (State.mk fs cfg · responses) h

theorem takeEvent_none {s : State} : takeEvent s = none ↔ s.host = [] := by
  cases h : s.host <;> simp [takeEvent, h]

theorem takeEvent_some {s s' : State} {e : HostEvent} :
    takeEvent s = some (e, s') ↔ s = issue e s' := by
  obtain ⟨fs, cfg, host, rs⟩ := s
  obtain ⟨fs', cfg', host', rs'⟩ := s'
  cases host with
  | nil => simp [takeEvent, issue]
  | cons e' rest => simp [takeEvent, issue]; tauto

end Sys2Proof.Machine
end

