-- ==== Sys2Proof/Laws/Ops.lean ====
section
/-! SUPPORT. What the shared operations do: reading, writing, answering, looking up. -/

namespace Sys2Proof.Machine

/-! ### The frame register file -/

theorem memByte_eq_none_iff {fs : FrameFile} {a : Nat} : memByte fs a = none ↔ 112 ≤ a := by
  simp [memByte]; omega

/-- `Mem[8*s + b] = FS[s][b]` (R40). -/
theorem memByte_slot {fs : FrameFile} {slot b : Nat} {v : Frame} (hv : fs[slot]? = some v) (hb : b < 8) :
    memByte fs (8 * slot + b) = some (byteOf v b) := by
  have h1 : (8 * slot + b) / 8 = slot := by omega
  have h2 : (8 * slot + b) % 8 = b := by omega
  simp [memByte, h1, h2, hv]

/-- A byte that is there is a byte of a slot. -/
theorem memByte_some {fs : FrameFile} {a : Nat} {x : Byte} (h : memByte fs a = some x) :
    ∃ v, fs[a / 8]? = some v ∧ byteOf v (a % 8) = x := by
  simpa [memByte] using h

/-- Two neighbouring bytes of a slot, the higher one more significant, are a slice of the register (R21). -/
theorem byteOf_append (v : Frame) (b : Nat) : byteOf v (b + 1) ++ byteOf v b = v.extractLsb' (8 * b) 16 := by
  apply BitVec.eq_of_getLsbD_eq
  intro i hi
  rw [BitVec.getLsbD_append]
  simp only [byteOf, BitVec.getLsbD_extractLsb']
  by_cases h : i < 8
  · simp [h, hi]
  · have : 8 * (b + 1) + (i - 8) = 8 * b + i := by omega
    have h8 : i - 8 < 8 := by omega
    simp [h, hi, this, h8]

/-- The value of a concatenation (R11). -/
theorem toNat_append {n m : Nat} (a : BitVec n) (b : BitVec m) : (a ++ b).toNat = b.toNat + 2 ^ m * a.toNat := by
  rw [BitVec.toNat_append, ← Nat.shiftLeft_add_eq_or_of_lt b.isLt, Nat.shiftLeft_eq, Nat.mul_comm, Nat.add_comm]

/-- The two-byte read is a slice of one register: `FS[SLOT]` bits `[8*OFF+15 : 8*OFF]` (R42). -/
theorem memRead2_slot {fs : FrameFile} {slot off : Nat} {v : Frame} (hv : fs[slot]? = some v) (ho : off + 1 < 8) :
    memRead2 fs (8 * slot + off) = some (v.extractLsb' (8 * off) 16) := by
  have h1 := memByte_slot hv (b := off) (by omega)
  have h2 := memByte_slot hv ho
  simp only [memRead2, Nat.add_assoc, h1, h2, byteOf_append]

/-- A well-formed entry reads one word of one slot (R44). -/
theorem memRead2_wellFormed {d : DescEntry} (fs : FrameFile) (hd : d.wellFormed = true) :
    ∃ v, fs[d.slot]? = some v ∧ memRead2 fs (8 * d.slot + d.off) = some (v.extractLsb' (8 * d.off) 16) := by
  obtain ⟨hs, ho, -⟩ := (DescEntry.wellFormed_iff d).mp hd
  exact ⟨fs[d.slot], by simp [hs], memRead2_slot (by simp [hs]) (by omega)⟩

/-- The two bytes a well-formed entry reads (R92). -/
theorem bytes_wellFormed {d : DescEntry} (fs : FrameFile) (hd : d.wellFormed = true) :
    ∃ lo hi, memByte fs (8 * d.slot + d.off) = some lo ∧ memByte fs (8 * d.slot + d.off + 1) = some hi ∧
      memRead2 fs (8 * d.slot + d.off) = some (hi ++ lo) := by
  obtain ⟨hs, ho, -⟩ := (DescEntry.wellFormed_iff d).mp hd
  have hv : fs[d.slot]? = some fs[d.slot] := by simp [hs]
  have h1 := memByte_slot hv (b := d.off) (by omega)
  have h2 := memByte_slot hv (b := d.off + 1) (by omega)
  exact ⟨_, _, h1, h2, by rw [memRead2, h1, Nat.add_assoc, h2]⟩

/-- What a slot holds after a write (R41). -/
theorem writeSlot_getElem? (fs : FrameFile) (slot i : Nat) (v : Frame) :
    (writeSlot fs slot v)[i]? = if i = slot ∧ slot < NSLOT then some v else fs[i]? := by
  unfold writeSlot
  rw [Vector.getElem?_setIfInBounds]
  by_cases h : slot = i
  · subst h; by_cases hs : slot < 14 <;> simp [hs]
  · simp [h, Ne.symm h]

theorem writeSlot_same (fs : FrameFile) {slot : Nat} (v : Frame) (h : slot < NSLOT) :
    (writeSlot fs slot v)[slot]? = some v := by
  rw [writeSlot_getElem?, if_pos ⟨rfl, h⟩]

theorem writeSlot_other (fs : FrameFile) {slot i : Nat} (v : Frame) (h : i ≠ slot) :
    (writeSlot fs slot v)[i]? = fs[i]? := by simp [writeSlot_getElem?, h]

/-- The write as the vector's own update (R13). -/
theorem writeSlot_eq_set (fs : FrameFile) {slot : Nat} (v : Frame) (h : slot < NSLOT) :
    writeSlot fs slot v = fs.set slot v h := by
  ext i hi : 1
  simp [writeSlot, Vector.getElem_setIfInBounds, Vector.getElem_set]

/-- A write leaves every byte outside its slot alone (R22, R41). -/
theorem memByte_writeSlot_other (fs : FrameFile) {slot a : Nat} (v : Frame) (h : a / 8 ≠ slot) :
    memByte (writeSlot fs slot v) a = memByte fs a := by simp [memByte, writeSlot_other fs v h]

theorem writeSlot_writeSlot (fs : FrameFile) (slot : Nat) (v w : Frame) :
    writeSlot (writeSlot fs slot v) slot w = writeSlot fs slot w := by
  ext i hi : 1
  have h : (writeSlot (writeSlot fs slot v) slot w)[i]? = (writeSlot fs slot w)[i]? := by
    simp only [writeSlot_getElem?]; split <;> simp_all
  simpa [hi] using h

/-! ### Responses, lookups, extraction -/

/-- A step from a well-formed configuration is not refused for it. -/
@[simp] theorem whenWellFormed_of {s : State} (h : s.cfg.wellFormed = true) (run : Result) :
    whenWellFormed s run = run := by simp [whenWellFormed, h]

@[simp] theorem whenWellFormed_not {s : State} (h : s.cfg.wellFormed = false) (run : Result) :
    whenWellFormed s run = .refused .illFormedConfig := by simp [whenWellFormed, h]

theorem whenWellFormed_next {s t : State} {run : Result} :
    whenWellFormed s run = .next t ↔ s.cfg.wellFormed = true ∧ run = .next t := by
  by_cases h : s.cfg.wellFormed = true <;> simp [whenWellFormed, h]

theorem lookup_found {α : Type} {n : Nat} {table : Vector α n} {id : Nat} {e : α} (h : table[id]? = some e)
    (s : State) (found : α → Result) : lookup table id s found = found e := by simp [lookup, h]

theorem lookup_lt {α : Type} {n : Nat} {table : Vector α n} {id : Nat} (h : id < n) (s : State)
    (found : α → Result) : lookup table id s found = found table[id] := by simp [lookup, h]

theorem lookup_ge {α : Type} {n : Nat} {table : Vector α n} {id : Nat} (h : n ≤ id) (s : State)
    (found : α → Result) : lookup table id s found = fail .noResult s := by simp [lookup, h]

/-- What a lookup can do: find an entry, or answer NORESULT. -/
theorem lookup_cases {α : Type} {n : Nat} (table : Vector α n) (id : Nat) (s : State) (found : α → Result) :
    (∃ e, table[id]? = some e ∧ lookup table id s found = found e) ∨
      n ≤ id ∧ lookup table id s found = fail .noResult s := by
  by_cases h : id < n
  · exact .inl ⟨table[id], by simp [h], lookup_lt h s found⟩
  · exact .inr ⟨by omega, lookup_ge (by omega) s found⟩

/-- The extraction of a well-formed entry. -/
theorem extract_wellFormed {d : DescEntry} (hd : d.wellFormed = true) (s : State) (found : Halfword → Result) :
    ∃ v, s.fs[d.slot]? = some v ∧ extract d s found = found (v.extractLsb' (8 * d.off) 16) := by
  obtain ⟨v, hv, hr⟩ := memRead2_wellFormed s.fs hd
  exact ⟨v, hv, by simp [extract, hr]⟩

/-- What an extraction can do: read a word, or be refused. -/
theorem extract_cases (d : DescEntry) (s : State) (found : Halfword → Result) :
    (∃ w, memRead2 s.fs (8 * d.slot + d.off) = some w ∧ extract d s found = found w) ∨
      extract d s found = .refused .illFormedConfig := by
  unfold extract
  split
  · exact .inl ⟨_, ‹_›, rfl⟩
  · exact .inr rfl

theorem bitFieldWord_found {p : Nat} {s : State} {d : DescEntry} (h : s.cfg.desc[p]? = some d)
    (found : Halfword → Result) : bitFieldWord p s found = extract d s found := by simp [bitFieldWord, h]

theorem bitFieldWord_cases (p : Nat) (s : State) (found : Halfword → Result) :
    (∃ w, bitFieldWord p s found = found w) ∨ bitFieldWord p s found = .refused .illFormedConfig := by
  unfold bitFieldWord
  split
  · exact (extract_cases _ s found).imp (fun ⟨w, _, h⟩ => ⟨w, h⟩) fun h => h
  · exact .inr rfl

/-- A frame is accepted when both fields are in order (R81). -/
theorem malformed_eq_false_iff (f : Frame) : malformed f = false ↔ sidOf f < NSLOT ∧ rsvOf f = 0 := by
  simp [malformed]

theorem malformed_iff (f : Frame) : malformed f = true ↔ NSLOT ≤ sidOf f ∨ rsvOf f ≠ 0 := by
  simp [malformed]

end Sys2Proof.Machine
end

