-- ==== Sys2Proof/Laws/Step.lean ====
section
/-! SUPPORT. What a command can do, said once, and what a step does for each host event. -/

namespace Sys2Proof.Machine

/-- The outcome of a command that writes nothing: one response, which is OK or the failure `st` (R140, R145). -/
def Answers (st : Status) (s : State) (run : Result) : Prop :=
  ∃ r, run = .next (respond r s) ∧ (r.status = .ok ∨ r = failureResponse st)

/-- The one failure of a legal command (R145). -/
def failStatus : Instr → Status
  | .ingest _ => .reject
  | _ => .noResult

theorem answers_ok {st : Status} {s : State} {r : Response} (h : r.status = .ok) : Answers st s (answer r s) :=
  ⟨r, rfl, .inl h⟩

theorem answers_fail (st : Status) (s : State) : Answers st s (fail st s) := ⟨failureResponse st, rfl, .inr rfl⟩

theorem answers_lookup {α : Type} {n : Nat} {table : Vector α n} {id : Nat} {s : State} {found : α → Result}
    (h : ∀ e, table[id]? = some e → Answers .noResult s (found e)) : Answers .noResult s (lookup table id s found) := by
  obtain ⟨e, he, hl⟩ | ⟨-, hl⟩ := lookup_cases table id s found
  · exact hl ▸ h e he
  · exact hl ▸ answers_fail .noResult s

theorem answers_extract {st : Status} {d : DescEntry} {s : State} {found : Halfword → Result} (hd : d.wellFormed = true)
    (h : ∀ w, Answers st s (found w)) : Answers st s (extract d s found) := by
  obtain ⟨v, -, he⟩ := extract_wellFormed hd s found
  exact he ▸ h _

theorem answers_bitFieldWord {st : Status} {p : Nat} {s : State} {d : DescEntry} {found : Halfword → Result}
    (hw : s.cfg.wellFormed = true) (hp : s.cfg.desc[p]? = some d) (h : ∀ w, Answers st s (found w)) :
    Answers st s (bitFieldWord p s found) := by
  rw [bitFieldWord_found hp]
  exact answers_extract (Config.wellFormed_entry hw hp) h

/-- What a command does with a well-formed configuration: it answers and writes nothing, or it is an accepted INGEST,
which answers OK and writes one slot (R14, R22, R140). -/
theorem exec_answers (i : Instr) {s : State} (hw : s.cfg.wellFormed = true) :
    Answers (failStatus i) s (exec i s) ∨ ∃ f, i = .ingest f ∧ malformed f = false ∧
      exec i s = .next (respond (okData 0#64) (setFs (writeSlot s.fs (sidOf f) f) s)) := by
  obtain ⟨-, ⟨dl, hl, -⟩, ds, hs, -⟩ := Config.wellFormed_bitFields hw
  cases i with
  | ingest f =>
    by_cases hf : malformed f = true
    · exact .inl (by simpa [exec, execIngest, hw, hf, failStatus] using answers_fail .reject s)
    · exact .inr ⟨f, rfl, by simpa using hf, by simp [exec, execIngest, hw, hf, answer_eq]⟩
  | decode id =>
    refine .inl ?_
    simp only [exec, execDecode, whenWellFormed_of hw]
    exact answers_lookup fun d hd => answers_extract (Config.wellFormed_entry hw hd) fun w => answers_ok rfl
  | limitFlag id =>
    refine .inl ?_
    simp only [exec, execLimitFlag, whenWellFormed_of hw]
    split
    · exact answers_bitFieldWord hw hl fun w => answers_ok rfl
    · exact answers_fail .noResult s
  | featStat id =>
    refine .inl ?_
    simp only [exec, execFeatStat, whenWellFormed_of hw]
    exact answers_lookup fun _ _ => answers_bitFieldWord hw hs fun w => answers_ok rfl
  | pName id | pUnit id | pDec id | pMin id | pMax id | lfName id | faultDesc id =>
    refine .inl ?_
    simp only [exec, execPName, execPUnit, execPDec, execPMin, execPMax, execLfName, execFaultDesc,
      whenWellFormed_of hw]
    exact answers_lookup fun _ _ => answers_ok rfl

/-- A command is refused exactly when the configuration is ill-formed (R24). -/
theorem exec_illFormed (i : Instr) {s : State} (hw : s.cfg.wellFormed = false) :
    exec i s = .refused .illFormedConfig := by
  cases i <;> simp [exec, execIngest, execDecode, execLimitFlag, execFeatStat, execPName, execPUnit, execPDec,
    execPMin, execPMax, execLfName, execFaultDesc, hw]

theorem exec_next_wellFormed {i : Instr} {s t : State} (h : exec i s = .next t) : s.cfg.wellFormed = true := by
  by_contra hw
  simp [exec_illFormed i (by simpa using hw)] at h

/-- The inversion of a command that answers a next state. -/
theorem exec_next_cases {i : Instr} {s t : State} (h : exec i s = .next t) :
    (∃ r, t = respond r s ∧ (r.status = .ok ∨ r = failureResponse (failStatus i))) ∨
      ∃ f, i = .ingest f ∧ malformed f = false ∧
        t = respond (okData 0#64) (setFs (writeSlot s.fs (sidOf f) f) s) := by
  obtain ⟨r, hr, hf⟩ | ⟨f, hi, hm, hr⟩ := exec_answers i (exec_next_wellFormed h)
  · exact .inl ⟨r, Host.Outcome.next.inj (h.symm.trans hr), hf⟩
  · exact .inr ⟨f, hi, hm, Host.Outcome.next.inj (h.symm.trans hr)⟩

/-- What a command leaves alone, whatever it is. -/
theorem exec_next_frame {i : Instr} {s t : State} (h : exec i s = .next t) :
    t.cfg = s.cfg ∧ t.host = s.host ∧ ∃ r, t.responses = r :: s.responses := by
  obtain ⟨r, rfl, -⟩ | ⟨f, -, -, rfl⟩ := exec_next_cases h
  · exact ⟨rfl, rfl, r, rfl⟩
  · exact ⟨rfl, rfl, _, rfl⟩

/-- With a well-formed configuration a command answers a next state and one response (R14). -/
theorem exec_total (i : Instr) {s : State} (hw : s.cfg.wellFormed = true) :
    ∃ t r, exec i s = .next t ∧ t.responses = r :: s.responses := by
  obtain ⟨r, h, -⟩ | ⟨f, -, -, h⟩ := exec_answers i hw
  · exact ⟨_, r, h, rfl⟩
  · exact ⟨_, _, h, rfl⟩

/-! ### Steps -/

theorem step_command {w : CmdWord} {i : Instr} (h : decode w = .ok i) (s : State) :
    step (issue (.command w) s) = exec i s := by simp [step, h]

theorem step_illegalWord {w : CmdWord} {why : IllegalWord} (h : decode w = .error why) (s : State) :
    step (issue (.command w) s) = answerIllegal s := by simp [step, h]

theorem step_resetEvent (s : State) : step (issue .reset s) = resetBlock s := by simp [step]

theorem step_noEvent {s : State} (h : s.host = []) : step s = idle s := by
  simp [step, takeEvent_none.mpr h]

theorem step_withFetchWord {nbits w : Nat} {i : Instr} (h : decodeTableWord nbits w = some i) (s : State) :
    step (s.withFetchWord nbits w) = exec i s := by
  have hd : decode (tableWord nbits w) = .ok i := by
    unfold decodeTableWord at h
    cases hd : decode (tableWord nbits w) <;> simp_all [Except.toOption]
  exact step_command hd s

/-- What a step can do: wait, reset, answer an illegal word, or run a command. -/
theorem step_cases (s : State) :
    (s.host = [] ∧ step s = idle s) ∨
    (∃ s', s = issue .reset s' ∧ step s = resetBlock s') ∨
    (∃ w why s', s = issue (.command w) s' ∧ decode w = .error why ∧ step s = answerIllegal s') ∨
    ∃ w i s', s = issue (.command w) s' ∧ decode w = .ok i ∧ step s = exec i s' := by
  cases ht : takeEvent s with
  | none => exact .inl ⟨takeEvent_none.mp ht, step_noEvent (takeEvent_none.mp ht)⟩
  | some p =>
    obtain ⟨e, s'⟩ := p
    obtain rfl := takeEvent_some.mp ht
    cases e with
    | reset => exact .inr (.inl ⟨s', rfl, step_resetEvent s'⟩)
    | command w =>
      cases hd : decode w with
      | error why => exact .inr (.inr (.inl ⟨w, why, s', rfl, hd, step_illegalWord hd s'⟩))
      | ok i => exact .inr (.inr (.inr ⟨w, i, s', rfl, hd, step_command hd s'⟩))

end Sys2Proof.Machine
end

