-- ==== Sys2Proof/Laws/Exec.lean ====
section
/-! SUPPORT. The outcome of each command that reads or writes the frame register file, once its operands are known. -/

namespace Sys2Proof.Machine

variable {s : State}

theorem exec_ingest_malformed {f : Frame} (hw : s.cfg.wellFormed = true) (hm : malformed f = true) :
    exec (.ingest f) s = .next (respond (failureResponse .reject) s) := by
  simp [exec, execIngest, hw, hm, fail_eq]

theorem exec_ingest_accepted {f : Frame} (hw : s.cfg.wellFormed = true) (hm : malformed f = false) :
    exec (.ingest f) s = .next (respond (okData 0#64) (setFs (writeSlot s.fs (sidOf f) f) s)) := by
  simp [exec, execIngest, hw, hm, answer_eq]

theorem exec_decode_word {id : Nat} {d : DescEntry} {w : Halfword} (hw : s.cfg.wellFormed = true)
    (hd : s.cfg.desc[id]? = some d) (hr : memRead2 s.fs (8 * d.slot + d.off) = some w) :
    exec (.decode id) s = .next (respond (okInt (scale d (rawOf d w))) s) := by
  simp [exec, execDecode, hw, lookup_found hd, extract, hr, answer_eq]

theorem exec_decode_outside {id : Nat} (hw : s.cfg.wellFormed = true) (h : NPARAM ≤ id) :
    exec (.decode id) s = .next (respond (failureResponse .noResult) s) := by
  simp [exec, execDecode, hw, lookup_ge h, fail_eq]

theorem exec_limitFlag_word {id : Nat} {d : DescEntry} {w : Halfword} (hw : s.cfg.wellFormed = true)
    (hid : id < NFLAG) (hd : s.cfg.desc[s.cfg.pLimits]? = some d)
    (hr : memRead2 s.fs (8 * d.slot + d.off) = some w) :
    exec (.limitFlag id) s = .next (respond (okData (limitBit w id)) s) := by
  simp only [exec, execLimitFlag, whenWellFormed_of hw, if_pos hid, bitFieldWord_found hd, extract, hr, answer_eq]

theorem exec_limitFlag_outside {id : Nat} (hw : s.cfg.wellFormed = true) (h : NFLAG ≤ id) :
    exec (.limitFlag id) s = .next (respond (failureResponse .noResult) s) := by
  simp only [exec, execLimitFlag, whenWellFormed_of hw, if_neg (Nat.not_lt.mpr h), fail_eq]

theorem exec_featStat_word {id : Nat} {field : Nat × Nat} {d : DescEntry} {w : Halfword}
    (hw : s.cfg.wellFormed = true) (hf : fsLut[id]? = some field) (hd : s.cfg.desc[s.cfg.pStatus]? = some d)
    (hr : memRead2 s.fs (8 * d.slot + d.off) = some w) :
    exec (.featStat id) s = .next (respond (okData (featureField w field.1 field.2)) s) := by
  simp only [exec, execFeatStat, whenWellFormed_of hw, lookup_found hf, bitFieldWord_found hd, extract, hr, answer_eq]

theorem exec_featStat_outside {id : Nat} (hw : s.cfg.wellFormed = true) (h : NSTATUS ≤ id) :
    exec (.featStat id) s = .next (respond (failureResponse .noResult) s) := by
  simp only [exec, execFeatStat, whenWellFormed_of hw, lookup_ge h, fail_eq]

end Sys2Proof.Machine
end

