-- ==== Sys2Proof/Laws/Flags.lean ====
section
/-! SUPPORT. The bit computations of the flag decoder, bit by bit. -/

namespace Sys2Proof.Machine

/-- The limit bit is 1 exactly when its bit of the word is set (R110). -/
theorem limitBit_eq (w : Halfword) (id : Nat) : limitBit w id = if w.getLsbD id then 1#64 else 0#64 := by
  apply BitVec.eq_of_getLsbD_eq
  intro i hi
  rw [limitBit, BitVec.getLsbD_setWidth, BitVec.getLsbD_and, BitVec.getLsbD_ushiftRight]
  by_cases h0 : i = 0
  · subst h0
    cases w.getLsbD id <;> simp
  · have h1 : (1#16).getLsbD i = false := by simp [h0]
    rw [h1]
    split <;> simp [h0]

/-- The field is the slice `w[off+wid-1 : off]` (R113). -/
theorem featureField_eq (w : Halfword) (off wid : Nat) (h : wid ≤ 16) :
    featureField w off wid = (w.extractLsb' off wid).setWidth 64 := by
  apply BitVec.eq_of_getLsbD_eq
  intro i hi
  rw [featureField, BitVec.getLsbD_setWidth, BitVec.getLsbD_and, BitVec.getLsbD_ushiftRight, BitVec.getLsbD_setWidth,
    BitVec.getLsbD_extractLsb', BitVec.getLsbD_ofNat, Nat.testBit_two_pow_sub_one]
  by_cases h1 : i < wid
  · simp [h1, show i < 16 by omega]
  · simp [h1]

end Sys2Proof.Machine
end

