-- ==== Sys2Proof/Laws/MemoryView.lean ====
section
/-! SUPPORT. The cell list is in its canonical form whatever the registers hold, so every operation on them keeps it. -/

namespace Sys2Proof.Machine

theorem cellAt_some {fs : FrameFile} {a : Nat} {cell : Host.Cell} (h : cellAt fs a = some cell) :
    cell.1 = a ∧ cell.2 ≠ unlistedByte ∧ memByte fs a = some cell.2 := by
  unfold cellAt at h
  cases hb : memByte fs a with
  | none => simp [hb] at h
  | some b =>
    simp only [hb, Option.bind_some, Option.ite_none_left_eq_some, Option.some.injEq] at h
    obtain ⟨h1, rfl⟩ := h
    exact ⟨rfl, h1, rfl⟩

/-- The canonical form (R40, R46): after reset, after a write, always. -/
theorem cells_wf (fs : FrameFile) : Memory.wf (cells fs) := by
  constructor
  · unfold cells
    rw [List.pairwise_filterMap]
    refine List.pairwise_lt_range.imp fun hab x hx y hy => ?_
    rw [(cellAt_some hx).1, (cellAt_some hy).1]
    exact hab
  · intro cell hc
    obtain ⟨a, ha, h⟩ := List.mem_filterMap.mp hc
    obtain ⟨h1, h2, -⟩ := cellAt_some h
    exact ⟨by rw [h1]; exact List.mem_range.mp ha, h2⟩

theorem writeSlot_cells_wf (fs : FrameFile) (slot : Nat) (v : Frame) : Memory.wf (cells (writeSlot fs slot v)) :=
  cells_wf _

theorem reset_cells (c : Config) : cells (State.resetWith c).fs = [] := by
  rw [cells, List.filterMap_eq_nil_iff]
  intro a ha
  have h : a / 8 < 14 := by
    have : a < 112 := List.mem_range.mp ha
    omega
  simp [cellAt, memByte, h, byteOf, unlistedByte]

end Sys2Proof.Machine
end

