-- ==== Sys2Proof/Laws/PerInstr.lean ====
section
/-! SUPPORT. The family TableRow: an encoded command matches the match and mask of its row of the opcode table (R61). -/

namespace Sys2Proof.Laws.TableRow

/-- The mask of the row: the opcode, and in format I the reserved bits (R61). -/
def mask : Instr → CmdWord
  | .ingest _ => 0xFF0000000000000000#72
  | _ => 0xFFFFFFFFFFFFFF0000#72

/-- The match of the row (R61). -/
def matchWord : Instr → CmdWord
  | .ingest _ => 0x010000000000000000#72
  | .decode _ => 0x020000000000000000#72
  | .limitFlag _ => 0x030000000000000000#72
  | .featStat _ => 0x040000000000000000#72
  | .pName _ => 0x050000000000000000#72
  | .pUnit _ => 0x060000000000000000#72
  | .pDec _ => 0x070000000000000000#72
  | .pMin _ => 0x080000000000000000#72
  | .pMax _ => 0x090000000000000000#72
  | .lfName _ => 0x0A0000000000000000#72
  | .faultDesc _ => 0x0B0000000000000000#72

/-- The word of the command, masked, is the row's match. -/
def Statement (i : Instr) : Prop := encode i &&& mask i = matchWord i

theorem formatF_and (op : BitVec 8) (f : Frame) :
    encodeFormatF op f &&& 0xFF0000000000000000#72 = op ++ 0#64 := by
  show (op ++ f) &&& (BitVec.allOnes 8 ++ 0#64) = op ++ 0#64
  rw [BitVec.and_append, BitVec.and_allOnes, BitVec.and_zero]

theorem formatI_and (op : BitVec 8) (id : Nat) :
    encodeFormatI op id &&& 0xFFFFFFFFFFFFFF0000#72 = op ++ 0#64 := by
  show (op ++ (0#48 ++ BitVec.ofNat 16 id)) &&& (BitVec.allOnes 8 ++ (BitVec.allOnes 48 ++ 0#16)) = op ++ (0#48 ++ 0#16)
  rw [BitVec.and_append, BitVec.and_append, BitVec.and_allOnes, BitVec.and_allOnes, BitVec.and_zero]

theorem ingest (frame : Frame) : Statement (.ingest frame) := formatF_and _ frame
theorem decode (id : Nat) : Statement (.decode id) := formatI_and _ id
theorem limitFlag (id : Nat) : Statement (.limitFlag id) := formatI_and _ id
theorem featStat (id : Nat) : Statement (.featStat id) := formatI_and _ id
theorem pName (id : Nat) : Statement (.pName id) := formatI_and _ id
theorem pUnit (id : Nat) : Statement (.pUnit id) := formatI_and _ id
theorem pDec (id : Nat) : Statement (.pDec id) := formatI_and _ id
theorem pMin (id : Nat) : Statement (.pMin id) := formatI_and _ id
theorem pMax (id : Nat) : Statement (.pMax id) := formatI_and _ id
theorem lfName (id : Nat) : Statement (.lfName id) := formatI_and _ id
theorem faultDesc (id : Nat) : Statement (.faultDesc id) := formatI_and _ id

end Sys2Proof.Laws.TableRow
end

