-- ==== Sys2Proof/Tests/Slice0.lean ====
section
/-! SUPPORT. The model's own tests, on the vectors of 95_test_vectors.md (their ids are cited), and a witness for the
premises of every statement. The configuration is the example of 92_eei_decisions.md D24, which is no claim about the
repository. -/

set_option Elab.async false

namespace Sys2Proof.Tests

open Sys2Proof.Machine

/-- A row of the table of D24 (SIGNED is 1 in all of them). -/
def entry (slot off : Nat) (pre mul div post : Int) : DescEntry :=
  { slot := slot, off := off, signed := true, pre := pre, mul := mul, div := div, post := post }

/-- `DESC_EXAMPLE` (D24). -/
def exampleTable : Vector DescEntry 41 :=
    #v[entry 0 2 0 1 1 0, entry 0 4 0 1 1 0, entry 0 6 0 1 1 (-100), entry 1 2 0 1 10 0, entry 1 4 0 1 10 0,
      entry 1 6 0 1 10 0, entry 2 2 0 1 10 0, entry 2 4 0 1 1000 0, entry 2 6 0 1 1 (-50)]
      ++ #v[entry 3 2 0 1 1 (-50), entry 3 4 0 1 100 0, entry 3 6 0 1 10 0, entry 4 2 0 1 1 0, entry 4 4 0 1 1 0,
      entry 4 6 0 1 10 (-100), entry 5 2 0 1 10 0, entry 5 4 0 1 10 0, entry 5 6 0 (-1) 10 0]
      ++ #v[entry 6 2 0 (-1) 10 0, entry 6 4 0 1 1000 0, entry 6 6 0 1 1000 0, entry 7 2 0 1 1 0, entry 7 4 0 1 1 0,
      entry 7 6 0 1 1 0, entry 8 2 0 1 1 (-50), entry 8 4 0 1 1 0, entry 8 6 0 1 10 0]
      ++ #v[entry 9 2 0 1 10 0, entry 9 4 0 1 10 0, entry 9 6 0 1 10 0, entry 10 2 0 5 1 0, entry 10 4 0 5 1 0,
      entry 10 6 0 5 1 0, entry 11 2 0 5 1 0, entry 11 4 0 5 1 0, entry 11 6 0 5 1 0]
      ++ #v[entry 12 2 0 5 1 0, entry 12 4 0 5 1 0, entry 12 6 0 1 1 0, entry 13 2 0 1 1 0, entry 13 4 0 1 1 0]

/-- The example configuration of D24, its catalog empty but for the entries a vector states. -/
def exampleConfig : Config :=
  { desc := exampleTable, pTrig1Err := 21, pFault := 22, pFuelPress := 23, pCoolant := 8, pLimits := 38, pStatus := 39
    metaTable := ((Vector.replicate 41 { name := [], unit := [], decimals := 0, min := 0, max := 0 } : Vector MetaEntry 41).set 8
      { name := [0x43, 0x54], unit := [0x43], decimals := 0, min := -50, max := 200 }).set 40
      { name := [0x58], unit := [], decimals := 2, min := 0, max := 15000 }
    lfNameRom := (Vector.replicate 16 []).set 15 [0x4C, 0x46]
    faultRom := (Vector.replicate 124 []).set 123 [0x46] }

/-- The example block with some slots written. -/
def block (slots : List (Nat × Frame)) : State :=
  slots.foldl (fun s w => setFs (writeSlot s.fs w.1 w.2) s) (State.resetWith exampleConfig)

/-- Slots 2, 7, 12 and 13 of the spec's programs P1, P2 and P3. -/
def busy : State :=
  block [(2, 0x0064000000000002#64), (7, 0x012C000F00000007#64), (12, 0x800100000000000C#64), (13, 0x0000000030F5000D#64)]

/-- The response to a command word. -/
def response (w : CmdWord) (s : State) : Option Response := answered (step (issue (.command w) s))

/-- The content of a slot after a command word. -/
def slotAfter (w : CmdWord) (slot : Nat) (s : State) : Option Frame :=
  (nextState? (step (issue (.command w) s))).bind fun t => t.fs[slot]?

/-! ### Well-formedness: an ill-formed term for each check -/

theorem test_wellFormed_ident_16_bits :
    (Instr.decode 65535).wellFormed = true ∧ (Instr.decode 65536).wellFormed = false ∧
      (Instr.ingest 0#64).wellFormed = true := by decide

theorem test_example_config : exampleConfig.wellFormed = true ∧ exampleConfig.exact = true ∧
    exampleConfig.asTheDocumentDescribes = true ∧ exampleConfig.catalogBounded = true := by decide +kernel

/-- R25: either spelling of a bias, and a table that loses a listed bias, a listed scale, or has one of its own. -/
theorem test_document_checks :
    (entry 4 6 0 1 10 (-100)).hasBias (-100) = true ∧ (entry 4 6 (-1000) 1 10 0).hasBias (-100) = true ∧
      (entry 4 6 (-100) 1 10 0).hasBias (-100) = true ∧ (entry 4 6 (-100) 1 10 0).hasBias (-50) = false ∧
      (let plain := (exampleTable.set 2 (entry 0 6 0 1 1 0)).set 14 (entry 4 6 0 1 10 0)
       ({ exampleConfig with desc := plain } : Config).biasesSeen = false) ∧
      ({ exampleConfig with desc := exampleTable.set 10 (entry 3 4 0 1 10 0) } : Config).scalesSeen = false ∧
      ({ exampleConfig with desc := exampleTable.set 40 (entry 13 4 0 1 1 (-7)) } : Config).biasesListed = false ∧
      ({ exampleConfig with desc := exampleTable.set 40 (entry 13 4 0 1 3 0) } : Config).scalesListed = false := by
  decide +kernel

/-- W1 to W4 of R24. -/
theorem test_entry_checks_refuse :
    (entry 13 6 (-32768) 32767 32767 (-32768)).wellFormed = true ∧ (entry 14 6 0 1 1 0).wellFormed = false ∧
      (entry 0 7 0 1 1 0).wellFormed = false ∧ (entry 0 0 0 1 1 0).wellFormed = false ∧
      (entry 0 2 0 1 0 0).wellFormed = false ∧ (entry 0 2 0 1 32768 0).wellFormed = false ∧
      (entry 0 2 32768 1 1 0).wellFormed = false ∧ (entry 0 2 0 (-32769) 1 0).wellFormed = false ∧
      (entry 0 2 0 1 1 32768).wellFormed = false := by decide

/-- W5 and W6 of R24, and one bad entry in an otherwise good table. -/
theorem test_config_checks_refuse :
    ({ exampleConfig with pStatus := 38 } : Config).wellFormed = false ∧
      ({ exampleConfig with pLimits := 41 } : Config).wellFormed = false ∧
      ({ exampleConfig with pLimits := 14 } : Config).wellFormed = false ∧
      ({ exampleConfig with pFault := 21 } : Config).wellFormed = false ∧
      ({ exampleConfig with pCoolant := 0 } : Config).wellFormed = false ∧
      ({ exampleConfig with desc := exampleTable.set 40 (entry 14 4 0 1 1 0) } : Config).wellFormed = false := by
  decide +kernel

/-- An ill-formed configuration is not run (R24). -/
theorem test_ill_formed_is_refused :
    nextState? (step { busy with cfg := { exampleConfig with pStatus := 38 }, host := [.command 0x040000000000000002#72] })
      = none := by decide +kernel

/-! ### Decoding: words written out from R60, R61 and R69 -/

theorem test_decode_ingest : decode 0x01060504030201000D#72 = .ok (.ingest 0x060504030201000D#64) := by decide
theorem test_decode_decode : decode 0x02000000000000FFFF#72 = .ok (.decode 65535) := by decide
theorem test_decode_limitFlag : decode 0x03000000000000000F#72 = .ok (.limitFlag 15) := by decide
theorem test_decode_featStat : decode 0x040000000000000003#72 = .ok (.featStat 3) := by decide
theorem test_decode_pName : decode 0x050000000000000028#72 = .ok (.pName 40) := by decide
theorem test_decode_pUnit : decode 0x060000000000000029#72 = .ok (.pUnit 41) := by decide
theorem test_decode_pDec : decode 0x070000000000000029#72 = .ok (.pDec 41) := by decide
theorem test_decode_pMin : decode 0x080000000000000008#72 = .ok (.pMin 8) := by decide
theorem test_decode_pMax : decode 0x090000000000000029#72 = .ok (.pMax 41) := by decide
theorem test_decode_lfName : decode 0x0A0000000000000010#72 = .ok (.lfName 16) := by decide
theorem test_decode_faultDesc : decode 0x0B000000000000007C#72 = .ok (.faultDesc 124) := by decide

/-- V-X1 to V-X8. -/
theorem test_decode_illegal :
    decode 0x000000000000000000#72 = .error .opcode ∧ decode 0x0C0000000000000000#72 = .error .opcode ∧
      decode 0xFF012C000F00000007#72 = .error .opcode ∧ decode 0x020000000000010008#72 = .error .reservedBits ∧
      decode 0x03800000000000000F#72 = .error .reservedBits ∧ decode 0x0B0000000000010000#72 = .error .reservedBits ∧
      decode 0x020000000000010029#72 = .error .reservedBits ∧
      decode 0x01FFFFFFFFFFFFFFFF#72 = .ok (.ingest 0xFFFFFFFFFFFFFFFF#64) := by decide

theorem test_encode_words :
    encode (.ingest 0x012C000F00000007#64) = 0x01012C000F00000007#72 ∧ encode (.decode 23) = 0x020000000000000017#72 ∧
      encode (.faultDesc 65535) = 0x0B000000000000FFFF#72 := by decide

theorem test_table_word : decodeTableWord 72 0x040000000000000002 = some (.featStat 2) := by decide

/-- A word fetched right after reset is the word that runs (log 3). -/
theorem test_fetch_word_runs_after_reset :
    answered (step (State.reset.withFetchWord 72 0x01060504030201000D)) = some (okData 0#64) := by decide +kernel

/-! ### One step of each command -/

/-- V-I2, V-I3, V-I5. -/
theorem test_ingest :
    slotAfter 0x01060504030201000D#72 13 busy = some 0x060504030201000D#64 ∧
      response 0x01060504030201000E#72 busy = some ⟨.reject, 0#64, []⟩ ∧
      response 0x01AAAAAAAAAAAA0107#72 busy = some ⟨.reject, 0#64, []⟩ ∧
      slotAfter 0x01AAAAAAAAAAAA0107#72 7 busy = some 0x012C000F00000007#64 := by decide +kernel

/-- V-I8: the old words are gone. -/
theorem test_ingest_overwrites : slotAfter 0x010000000000000007#72 7 busy = some 0x0000000000000007#64 := by
  decide +kernel

/-- V-D2, V-D3, V-D5, V-D7, V-D8. -/
theorem test_decode :
    response 0x020000000000000008#72 (block []) = some ⟨.ok, 0xFFFFFFFFFFFF3CB0#64, []⟩ ∧
      response 0x02000000000000000E#72 (block []) = some ⟨.ok, 0xFFFFFFFFFFFE7960#64, []⟩ ∧
      response 0x020000000000000029#72 busy = some ⟨.noResult, 0#64, []⟩ ∧
      response 0x020000000000000017#72 busy = some ⟨.ok, 0x00000000000493E0#64, []⟩ ∧
      response 0x020000000000000016#72 busy = some ⟨.ok, 0x0000000000003A98#64, []⟩ := by decide +kernel

/-- V-F22: the limit word 0x8001 read signed. -/
theorem test_decode_signed : response 0x020000000000000026#72 busy = some ⟨.ok, BitVec.ofInt 64 (-32767000), []⟩ := by
  decide +kernel

/-- P3. -/
theorem test_limitFlag :
    response 0x030000000000000000#72 busy = some ⟨.ok, 1#64, []⟩ ∧
      response 0x030000000000000001#72 busy = some ⟨.ok, 0#64, []⟩ ∧
      response 0x03000000000000000F#72 busy = some ⟨.ok, 1#64, []⟩ ∧
      response 0x030000000000000010#72 busy = some ⟨.noResult, 0#64, []⟩ := by decide +kernel

/-- V-F11 to V-F14, V-F21. -/
theorem test_featStat :
    response 0x040000000000000000#72 busy = some ⟨.ok, 7#64, []⟩ ∧
      response 0x040000000000000001#72 busy = some ⟨.ok, 2#64, []⟩ ∧
      response 0x040000000000000002#72 busy = some ⟨.ok, 5#64, []⟩ ∧
      response 0x040000000000000003#72 busy = some ⟨.ok, 3#64, []⟩ ∧
      response 0x040000000000000004#72 busy = some ⟨.noResult, 0#64, []⟩ := by decide +kernel

/-- V-C1, V-C2 on the example's own entries. -/
theorem test_pName :
    response 0x050000000000000028#72 busy = some ⟨.ok, 1#64, [0x58#8]⟩ ∧
      response 0x050000000000000029#72 busy = some ⟨.noResult, 0#64, []⟩ := by decide +kernel
theorem test_pUnit :
    response 0x060000000000000008#72 busy = some ⟨.ok, 1#64, [0x43#8]⟩ ∧
      response 0x060000000000000029#72 busy = some ⟨.noResult, 0#64, []⟩ := by decide +kernel
theorem test_pDec :
    response 0x070000000000000028#72 busy = some ⟨.ok, 2#64, []⟩ ∧
      response 0x070000000000000029#72 busy = some ⟨.noResult, 0#64, []⟩ := by decide +kernel
/-- V-C4: MIN = -50. -/
theorem test_pMin :
    response 0x080000000000000008#72 busy = some ⟨.ok, 0xFFFFFFFFFFFFFFCE#64, []⟩ ∧
      response 0x080000000000000029#72 busy = some ⟨.noResult, 0#64, []⟩ := by decide +kernel
theorem test_pMax :
    response 0x090000000000000028#72 busy = some ⟨.ok, 15000#64, []⟩ ∧
      response 0x090000000000000029#72 busy = some ⟨.noResult, 0#64, []⟩ := by decide +kernel
/-- V-C5, V-C6. -/
theorem test_lfName :
    response 0x0A000000000000000F#72 busy = some ⟨.ok, 2#64, [0x4C#8, 0x46#8]⟩ ∧
      response 0x0A0000000000000010#72 busy = some ⟨.noResult, 0#64, []⟩ := by decide +kernel
/-- V-C7 to V-C10. -/
theorem test_faultDesc :
    response 0x0B0000000000000000#72 busy = some ⟨.ok, 0#64, []⟩ ∧
      response 0x0B000000000000007B#72 busy = some ⟨.ok, 1#64, [0x46#8]⟩ ∧
      response 0x0B000000000000007C#72 busy = some ⟨.noResult, 0#64, []⟩ ∧
      response 0x0B000000000000FFFF#72 busy = some ⟨.noResult, 0#64, []⟩ := by decide +kernel

/-- V-X3: an illegal word with a good frame in it writes nothing. -/
theorem test_illegal_word :
    response 0xFF012C000F00000007#72 (block []) = some ⟨.illegal, 0#64, []⟩ ∧
      slotAfter 0xFF012C000F00000007#72 7 (block []) = some 0#64 := by decide +kernel

theorem test_reset_event :
    (nextState? (step (issue .reset busy))).map State.fs = some (Vector.replicate 14 0#64) := by decide +kernel

/-- The response word of V-D8 (R64). -/
theorem test_response_word : (okInt 15000).word = 0x000000000000003A98#72 ∧
    (failureResponse .noResult).word = 0x020000000000000000#72 := by decide

/-! ### The scaler (V-S rows), as Q -/

/-- V-S4, V-S8, V-S16, V-S19, V-S21, V-S22, V-S24, V-S25, V-S26. -/
theorem test_scaler :
    (let q (d : DescEntry) (w : Halfword) : Int := scale d (rawOf d w)
     q { entry 0 2 0 1 1 0 with signed := false } 0xFFFF#16 = 65535000 ∧ q (entry 0 2 0 (-1) 10 0) 0x8000#16 = 3276800 ∧
     q (entry 0 2 0 1 1000 0) 0xFFFF#16 = -1 ∧ q (entry 0 2 0 1 3 0) 0xFFFF#16 = -333 ∧
     q (entry 0 2 0 1 3 (-1)) 0x0001#16 = -667 ∧ q (entry 0 2 0 7 2 0) 0xFFFF#16 = -3500 ∧
     q (entry 0 2 (-32768) (-32768) 1 (-32768)) 0x8000#16 = 2147450880000 ∧
     q { entry 0 2 32767 (-32768) 1 (-32768) with signed := false } 0xFFFF#16 = -3221192704000 ∧
     q { entry 0 2 32767 32767 1 32767 with signed := false } 0xFFFF#16 = 3221094401000) := by decide

/-! ### The assembler (R69, R70, P2 and P4) -/

theorem test_assemble_lines :
    assembleText exampleConfig
      "INGEST 7, 0, 0, 0, 15, 0, 0x2C, 0b1 ; slot 7\n\n  DECODE 23\nINGESTW 3, -40, 1385, -1\nFEATSTAT CRUISE\nDECODE COOLANT".toList
      = some [0x01012C000F00000007#72, 0x020000000000000017#72, 0x01FFFF0569FFD80003#72, 0x040000000000000003#72,
        0x020000000000000008#72] := by decide +kernel

theorem test_assemble_errors :
    assembleLine exampleConfig "INGEST 256, 0, 0, 0, 0, 0, 0, 0".toList = none ∧
      assembleLine exampleConfig "DECODE 65536".toList = none ∧ assembleLine exampleConfig "DECODE 0x".toList = none ∧
      assembleLine exampleConfig "INGESTW 7, 65536, 0, 0".toList = none ∧
      assembleLine exampleConfig "HALT 0".toList = none ∧ assembleLine exampleConfig "; only a comment".toList = some none := by
  decide +kernel

/-! ### Witnesses: states and operands that meet the premises of each statement, at the ends of their ranges -/

theorem runs_busy : busy.cfg.wellFormed = true := by decide +kernel
theorem runs_reset : State.reset.cfg.wellFormed = true := by decide

theorem witness_DecodeOfEncodeIsTheCommand :
    (Instr.decode 65535).wellFormed = true ∧ (Instr.ingest 0xFFFFFFFFFFFFFFFF#64).wellFormed = true := by decide

theorem witness_LegalWordIsTheEncodingOfItsCommand : decode 0x0B000000000000FFFF#72 = .ok (.faultDesc 65535) := by
  decide

/-- An illegal word of each clause, a legal one, and a legal one with a bad reserved byte. -/
theorem witness_IllegalWordsAndOnlyTheyAreAnsweredIllegal :
    busy.cfg.wellFormed = true ∧ (issue (.command 0x0C0000000000000000#72) busy).host = [.command 0x0C0000000000000000#72] ∧
      ((0x0C0000000000000000#72).extractLsb' 64 8).toNat = 0x0C ∧
      ((0x020000000000010029#72).extractLsb' 64 8).toNat = 0x02 ∧ (0x020000000000010029#72).extractLsb' 16 48 ≠ 0#48 ∧
      ((0x0B000000000000FFFF#72).extractLsb' 64 8).toNat = 0x0B ∧ (0x0B000000000000FFFF#72).extractLsb' 16 48 = 0#48 ∧
      ((0x01AAAAAAAAAAAA0107#72).extractLsb' 64 8).toNat = 0x01 ∧ (0x01AAAAAAAAAAAA0107#72).extractLsb' 8 8 ≠ 0#8 := by
  decide +kernel

theorem witness_AssemblerProducesOnlyLegalWords :
    (AsmLine.decode .coolant).assemble exampleConfig = some 0x020000000000000008#72 := by decide +kernel

/-- The ends of the three ranges, and one operand outside. -/
theorem witness_IngestWBuildsTheFrameOfItsWords :
    (AsmLine.ingestW 255 (-32768) 65535 0).assemble exampleConfig = some 0x010000FFFF800000FF#72 ∧
      (AsmLine.ingestW 0 65536 0 0).assemble exampleConfig = none := by decide +kernel

theorem witness_StepRunsTheDecodedCommand :
    (issue (.command 0x040000000000000002#72) busy).host = .command 0x040000000000000002#72 :: [] ∧
      decode 0x040000000000000002#72 = .ok (.featStat 2) := by decide +kernel

theorem witness_EveryCommandWordEndsWithOneResponse :
    busy.cfg.wellFormed = true ∧ (issue (.command 0#72) busy).host = .command 0#72 :: [] := by decide +kernel

theorem witness_StepNeverStopsWhenWellFormed : busy.cfg.wellFormed = true := runs_busy

theorem witness_ResetEventZeroesEverySlot :
    (issue .reset busy).cfg.wellFormed = true ∧ (issue .reset busy).host = .reset :: [] := by decide +kernel

theorem witness_StepWithoutEventKeepsTheState : busy.cfg.wellFormed = true ∧ busy.host = [] := by decide +kernel

theorem witness_IllFormedConfigurationIsRefused :
    ({ exampleConfig with pStatus := 38 } : Config).wellFormed = false ∧ exampleConfig.wellFormed = true := by
  decide +kernel

theorem witness_ResetMeetsTheSlotInvariant : exampleConfig.wellFormed = true := by decide +kernel

/-- `sid` 13 accepted, `sid` 14 and a non-zero reserved byte rejected. -/
theorem witness_IngestWritesTheSlotOrRejects :
    busy.cfg.wellFormed = true ∧ ((0x000000000000000D#64).extractLsb' 0 8).toNat < 14 ∧
      (0x000000000000000D#64).extractLsb' 8 8 = 0#8 ∧ 14 ≤ ((0x000000000000000E#64).extractLsb' 0 8).toNat ∧
      (0x0000000000008007#64).extractLsb' 8 8 ≠ 0#8 := by decide +kernel

theorem witness_IngestStoresEightBytesAtEightTimesSid :
    (nextState? (exec (.ingest 0x000000000000000D#64) busy)).isSome = true ∧ malformed 0x000000000000000D#64 = false ∧
      (nextState? (exec (.ingest 0x000000000000000E#64) busy)).isSome = true ∧ malformed 0x000000000000000E#64 = true := by
  decide +kernel

theorem witness_LaterFrameReplacesTheWholeSlot :
    busy.cfg.wellFormed = true ∧ malformed 0x0064000000000002#64 = false ∧ malformed 0x0000000005DC0002#64 = false ∧
      sidOf 0x0064000000000002#64 = sidOf 0x0000000005DC0002#64 ∧
      busy.cfg.desc[8]?.map DescEntry.slot = some (sidOf 0x0000000005DC0002#64) := by decide +kernel

theorem witness_AcceptanceDependsOnTwoBytesAlone :
    (0x012C000F00000007#64).extractLsb' 0 16 = (0x0000000000000007#64).extractLsb' 0 16 ∧ busy.cfg.wellFormed = true ∧
      malformed 0x012C000F00000007#64 = false ∧ busy.fs[sidOf 0x012C000F00000007#64]? = some 0x012C000F00000007#64 := by
  decide +kernel

theorem witness_NoCommandClearsASlotAboveZero :
    (nextState? (exec (.ingest 0x000000000000000D#64) busy)).isSome = true ∧ busy.fs[13]? = some 0x0000000030F5000D#64 ∧
      slotAfter 0x01000000000000000D#72 13 busy = some 0x000000000000000D#64 := by decide +kernel

/-- Identifiers 40 and 41 (and the widest one) of DECODE; busy meets the premise of every DECODE statement. -/
theorem witness_DecodeAnswersTheScaledWord :
    busy.cfg.wellFormed = true ∧ 40 < 41 ∧ 41 ≤ 41 ∧ 65535 < 65536 ∧
      response 0x020000000000000028#72 busy = some ⟨.ok, 0#64, []⟩ := by decide +kernel

theorem witness_DecodeOutsideTheTableIsNoResult :
    busy.cfg.wellFormed = true ∧ response 0x020000000000000029#72 busy = some ⟨.noResult, 0#64, []⟩ ∧
      response 0x020000000000000028#72 busy = some ⟨.ok, 0#64, []⟩ := by decide +kernel

theorem witness_ScalerStaysInsideItsBounds :
    (entry 13 6 32767 (-32768) 1 (-32768)).wellFormed = true := by decide

/-- An exact and an inexact entry. -/
theorem witness_ScalerIsExactIffTheDivisionIs :
    (entry 0 2 0 (-1) 10 0).wellFormed = true ∧ (10 : Int) ∣ 1000 * -1 ∧ (entry 0 2 0 1 3 0).wellFormed = true ∧
      ¬((3 : Int) ∣ (1 + 0) * 1 * 1000) := by decide

theorem witness_ExactConfigurationDecodesExactly :
    busy.cfg.wellFormed = true ∧ busy.cfg.exact = true ∧ busy.cfg.desc[40]? = some (entry 13 4 0 1 1 0) := by
  decide +kernel

theorem witness_DivisionTruncatesTowardZero : (0 : Int) < 32767 ∧ (entry 0 2 0 1 1 0).wellFormed = true := by decide

theorem witness_ZeroSlotDecodesWithStatusOk :
    busy.cfg.wellFormed = true ∧ busy.cfg.desc[14]? = some (entry 4 6 0 1 10 (-100)) ∧ busy.fs[4]? = some 0#64 := by
  decide +kernel

/-- A second state with the same two bytes; a frame to another slot; a rejected frame. -/
theorem witness_DecodeDependsOnItsTwoBytesOnly :
    busy.cfg.wellFormed = true ∧ busy.cfg.desc[8]? = some (entry 2 6 0 1 1 (-50)) ∧
      (∀ b ∈ [22, 23], memByte (setFs (writeSlot busy.fs 6 6#64) busy).fs b = memByte busy.fs b) ∧
      (nextState? (exec (.ingest 0x0000000000000006#64) busy)).isSome = true ∧ 2 ≠ sidOf 0x0000000000000006#64 ∧
      (nextState? (exec (.ingest 0x0000000000000102#64) busy)).isSome = true ∧ malformed 0x0000000000000102#64 = true := by
  decide +kernel

theorem witness_PinnedParametersDecodeAsStated :
    busy.cfg.wellFormed = true ∧ busy.fs[7]? = some 0x012C000F00000007#64 := by decide +kernel

theorem witness_LimitFlagAnswersItsBit :
    busy.cfg.wellFormed = true ∧ response 0x03000000000000000F#72 busy = some ⟨.ok, 1#64, []⟩ ∧
      response 0x030000000000000010#72 busy = some ⟨.noResult, 0#64, []⟩ := by decide +kernel

theorem witness_FeatStatAnswersItsField :
    busy.cfg.wellFormed = true ∧ response 0x040000000000000003#72 busy = some ⟨.ok, 3#64, []⟩ ∧
      response 0x040000000000000004#72 busy = some ⟨.noResult, 0#64, []⟩ := by decide +kernel

theorem witness_BitFieldWordIsTheValueModulo65536 :
    busy.cfg.wellFormed = true ∧ busy.cfg.pLimits = 38 ∧ busy.cfg.pStatus = 39 := by decide +kernel

/-- Two status words that differ in bit 15 only, and one limit word in both states. -/
theorem witness_StatusBitsOutsideTheFieldsHaveNoEffect :
    (let other := setFs (writeSlot busy.fs 13 0x00000000B0F5000D#64) busy
     busy.cfg.wellFormed = true ∧ busy.cfg.desc[busy.cfg.pStatus]? = some (entry 13 2 0 1 1 0) ∧
     busy.cfg.desc[busy.cfg.pLimits]? = some (entry 12 6 0 1 1 0) ∧
     memRead2 busy.fs (8 * 13 + 2) = some 0x30F5#16 ∧ memRead2 other.fs (8 * 13 + 2) = some 0xB0F5#16 ∧
     memRead2 busy.fs (8 * 12 + 6) = some 0x8001#16 ∧ memRead2 other.fs (8 * 12 + 6) = some 0x8001#16 ∧
     0x30F5#16 &&& 0x70FF#16 = 0xB0F5#16 &&& 0x70FF#16 ∧
     (∀ id < 16, answered (exec (.limitFlag id) other) = answered (exec (.limitFlag id) busy)) ∧
     answered (exec (.decode busy.cfg.pLimits) other) = answered (exec (.decode busy.cfg.pLimits) busy) ∧
     answered (exec (.decode busy.cfg.pStatus) (respond (okData 0#64) busy)) =
       answered (exec (.decode busy.cfg.pStatus) busy)) := by decide +kernel

theorem witness_BitFieldCommandsDependOnTheirWordOnly :
    (let other := setFs (writeSlot busy.fs 0 0x0001000200030000#64) busy
     busy.cfg.wellFormed = true ∧ (nextState? (exec (.limitFlag 15) busy)).isSome = true ∧
     (nextState? (exec (.featStat 3) busy)).isSome = true ∧
     memRead2 other.fs (8 * 12 + 6) = memRead2 busy.fs (8 * 12 + 6) ∧
     memRead2 other.fs (8 * 13 + 2) = memRead2 busy.fs (8 * 13 + 2)) := by decide +kernel

/-- The last identifier inside and the first outside each table. -/
theorem witness_StringLookupsAnswerTheEntry :
    busy.cfg.wellFormed = true ∧ busy.cfg.catalogBounded = true ∧
      response 0x060000000000000028#72 busy = some ⟨.ok, 0#64, []⟩ ∧
      response 0x060000000000000029#72 busy = some ⟨.noResult, 0#64, []⟩ ∧
      response 0x0A000000000000000F#72 busy = some ⟨.ok, 2#64, [0x4C#8, 0x46#8]⟩ ∧
      response 0x0A0000000000000010#72 busy = some ⟨.noResult, 0#64, []⟩ ∧
      response 0x0B000000000000007B#72 busy = some ⟨.ok, 1#64, [0x46#8]⟩ ∧
      response 0x0B000000000000007C#72 busy = some ⟨.noResult, 0#64, []⟩ := by decide +kernel

theorem witness_NumberLookupsAnswerTheEntrySignExtended :
    busy.cfg.wellFormed = true ∧ response 0x090000000000000028#72 busy = some ⟨.ok, 15000#64, []⟩ ∧
      response 0x090000000000000029#72 busy = some ⟨.noResult, 0#64, []⟩ := by decide +kernel

theorem witness_LookupsDoNotTouchTheFrameFile :
    (nextState? (exec (.pName 40) busy)).isSome = true ∧ (nextState? (exec (.faultDesc 124) busy)).isSome = true := by
  decide +kernel

theorem witness_OtherCommandsChangeNothingButTheResponse :
    (∀ f, Instr.decode 8 ≠ .ingest f) ∧ (nextState? (exec (.decode 8) busy)).isSome = true :=
  ⟨fun _ h => Instr.noConfusion h, by decide +kernel⟩

/-- A slot that reset changes, and one that its own frame changes. -/
theorem witness_SlotChangesOnlyByResetOrItsOwnFrame :
    ((nextState? (step (issue .reset busy))).bind fun t => t.fs[7]?) = some 0#64 ∧
      slotAfter 0x010000000000000007#72 7 busy = some 0x0000000000000007#64 ∧
      busy.fs[7]? = some 0x012C000F00000007#64 := by decide +kernel

theorem witness_ConfigurationNeverChanges :
    (nextState? (step (issue .reset busy))).isSome = true ∧ (nextState? (exec (.ingest 0x0D#64) busy)).isSome = true := by
  decide +kernel

/-- The three failures: an illegal word, a rejected frame, an identifier out of range. -/
theorem witness_FailureHasZeroDataAndChangesNothing :
    response 0x0C0000000000000000#72 busy = some ⟨.illegal, 0#64, []⟩ ∧
      response 0x01000000000000000E#72 busy = some ⟨.reject, 0#64, []⟩ ∧
      response 0x020000000000000029#72 busy = some ⟨.noResult, 0#64, []⟩ := by decide +kernel

theorem witness_EachCommandHasOneFailureStatus :
    answered (exec (.ingest 0x0E#64) busy) = some ⟨.reject, 0#64, []⟩ ∧
      answered (exec (.featStat 4) busy) = some ⟨.noResult, 0#64, []⟩ := by decide +kernel

theorem witness_FailedCommandIsInvisibleToTheNext :
    exec (.decode 41) busy = .next (respond (failureResponse .noResult) busy) ∧
      (failureResponse .noResult).status ≠ .ok := ⟨by rfl, by decide⟩

theorem witness_CommandDependsOnConfigurationAndRegistersOnly : busy.cfg.wellFormed = true := runs_busy

theorem witness_StepKeepsTheSlotInvariant :
    Inv State.reset ∧ (nextState? (step (State.reset.withFetchWord 72 0x01060504030201000D))).isSome = true := by
  refine ⟨⟨runs_reset, fun slot v hv => ?_⟩, by decide +kernel⟩
  simp only [State.reset, State.resetWith, Vector.getElem?_replicate] at hv
  split at hv <;> cases hv
  exact ⟨rfl, .inl rfl⟩

/-- A slot written twice and one written and then reset. -/
theorem witness_EachSlotHoldsItsLatestWrite :
    busy.cfg.wellFormed = true ∧
      latestWrite 2 [.command 0x010064000000000002#72, .command 0x010000000005DC0002#72] = some 0x0000000005DC0002#64 ∧
      latestWrite 2 [.command 0x010064000000000002#72, .reset] = some 0#64 ∧
      latestWrite 3 [.command 0x010064000000000002#72] = none := by decide +kernel

theorem witness_AddressSpaceIsTheBytesOfTheRegisters : 111 < 112 ∧ 112 ≤ 112 := by decide

theorem witness_CellListIsCanonicalAndFaithful :
    (cells busy.fs).head? = some (16, 0x02#8) ∧ cellsRead (cells busy.fs) 23 = 0x00#8 ∧
      cellsRead (cells busy.fs) 62 = 0x2C#8 := by decide +kernel


end Sys2Proof.Tests
end

