-- ==== Sys2Proof/Proofs/Scope.lean ====
section
/-! The statements of 00_scope.md: the step runs the decoded command (R10), every command word gets one response and
one next state (R14), and no step stops (R13, R14, R147). -/

namespace Sys2Proof.Machine

section
variable {s : State}

@[simp] theorem idle_wellFormed (hw : s.cfg.wellFormed = true) : idle s = .next s :=
  whenWellFormed_of hw _

@[simp] theorem resetBlock_wellFormed (hw : s.cfg.wellFormed = true) :
    resetBlock s = .next (setFs (Vector.replicate NSLOT 0#64) s) :=
  whenWellFormed_of hw _

@[simp] theorem answerIllegal_wellFormed (hw : s.cfg.wellFormed = true) :
    answerIllegal s = .next (respond (failureResponse .illegal) s) :=
  whenWellFormed_of hw _

/-- A word issued to a block that runs, legal or not, is taken and gets one response (R14, R67). -/
theorem step_issue_command_total (w : CmdWord) (hw : s.cfg.wellFormed = true) :
    ∃ t r, step (issue (.command w) s) = .next t ∧ t.responses = r :: s.responses ∧ t.host = s.host := by
  cases hd : decode w with
  | error why => exact ⟨_, _, (step_illegalWord hd s).trans (answerIllegal_wellFormed hw), rfl, rfl⟩
  | ok i =>
    obtain ⟨t, r, ht, hr⟩ := exec_total i hw
    obtain ⟨-, hhost, -⟩ := exec_next_frame ht
    exact ⟨t, r, (step_command hd s).trans ht, hr, hhost⟩

end

/-- Settles O9: a state with a command word waiting is one in which the host issued that word. -/
theorem stepRunsTheDecodedCommand : Obligations.StepRunsTheDecodedCommand := by
  intro s w i rest hs hd
  calc step s = step (issue (.command w) { s with host := rest }) := congrArg step (eq_issue hs)
    _ = exec i { s with host := rest } := step_command hd _

/-- Settles O10: the word is illegal and answered ILLEGAL, or it decodes to a command, which is total. -/
theorem everyCommandWordEndsWithOneResponse : Obligations.EveryCommandWordEndsWithOneResponse := by
  intro s w rest hw hs
  rw [eq_issue hs]
  exact step_issue_command_total w (s := { s with host := rest }) hw

/-- Settles O11, by the event the host has waiting: none, reset, or a command word. -/
theorem stepNeverStopsWhenWellFormed : Obligations.StepNeverStopsWhenWellFormed := by
  intro s hw
  cases hs : s.host with
  | nil => exact ⟨s, (step_noEvent hs).trans (idle_wellFormed hw)⟩
  | cons e rest =>
    cases e with
    | reset =>
      rw [eq_issue hs, step_resetEvent]
      exact ⟨_, resetBlock_wellFormed hw⟩
    | command w =>
      obtain ⟨t, -, ht, -⟩ := everyCommandWordEndsWithOneResponse s w rest hw hs
      exact ⟨t, ht⟩

end Sys2Proof.Machine
end

/-! The statements of 10_state.md: the configuration (R24, R26, R32), the state after reset (R37), the slot invariant
(R38), and what a command depends on and leaves unchanged (R22, R34, R36). -/

/-! ### Configurations (R24) -/

namespace Sys2Proof

/-- A check of the entry of an identifier, as the range of the identifier and the check of the entry itself. -/
theorem Config.entryIs_iff_getElem (c : Config) (p : Nat) (check : DescEntry → Bool) :
    c.entryIs p check = true ↔ ∃ h : p < 41, check c.desc[p] = true := by
  rw [Config.entryIs_iff]
  constructor
  · rintro ⟨d, hd, hc⟩
    obtain ⟨h, rfl⟩ := Vector.getElem?_eq_some_iff.mp hd
    exact ⟨h, hc⟩
  · rintro ⟨h, hc⟩
    exact ⟨c.desc[p], Vector.getElem?_eq_getElem h, hc⟩

/-- A check of the whole table, entry by entry. -/
theorem Config.all_desc_iff (c : Config) (check : DescEntry → Bool) :
    c.desc.toList.all check = true ↔ ∀ p : Fin 41, check c.desc[p] = true := by
  rw [List.all_eq_true]
  constructor
  · exact fun h p => h _ (Vector.mem_toList_iff.mpr (Vector.getElem_mem p.isLt))
  · intro h d hd
    obtain ⟨p, hp, rfl⟩ := Vector.getElem_of_mem (Vector.mem_toList_iff.mp hd)
    exact h ⟨p, hp⟩

/-- W1 to W4, W5 and W6 of R24, each in terms of the checks of the entries. -/
theorem Config.wellFormed_iff (c : Config) : c.wellFormed = true ↔
    (∀ p : Fin 41, c.desc[p].wellFormed = true) ∧
    (c.pLimits ≠ c.pStatus ∧ ∀ p ∈ [c.pLimits, c.pStatus], ∃ h : p < 41, c.desc[p].identityScaled = true) ∧
    (∀ pin ∈ [(c.pTrig1Err, 2), (c.pFault, 4), (c.pFuelPress, 6)],
      ∃ h : pin.1 < 41, c.desc[pin.1].slot7At pin.2 = true) ∧
    ∃ h : c.pCoolant < 41, c.desc[c.pCoolant].coolant = true := by
  simp only [Config.wellFormed, Bool.and_eq_true, bne_iff_ne, Config.all_desc_iff, Config.entryIs_iff_getElem,
    List.forall_mem_cons, List.not_mem_nil, false_implies, implies_true, and_true, and_assoc]

end Sys2Proof

namespace Sys2Proof.Machine

/-- Without a well-formed configuration every step is refused, whatever event is waiting (R24; log 7). -/
theorem step_illFormed {s : State} (hw : s.cfg.wellFormed = false) : step s = .refused .illFormedConfig := by
  obtain ⟨-, he⟩ | ⟨s', rfl, he⟩ | ⟨w, why, s', rfl, -, he⟩ | ⟨w, i, s', rfl, -, he⟩ := step_cases s
  · exact he.trans (whenWellFormed_not hw _)
  · exact he.trans (whenWellFormed_not hw _)
  · exact he.trans (whenWellFormed_not hw _)
  · exact he.trans (exec_illFormed i hw)

/-- Settles O14: each entry check is its list of fields, and every event and command asks for well-formedness first. -/
theorem illFormedConfigurationIsRefused : Obligations.IllFormedConfigurationIsRefused := by
  refine ⟨fun c => ?_, fun s hw => ⟨step_illFormed hw, fun i => exec_illFormed i hw⟩⟩
  simp only [Config.wellFormed_iff, DescEntry.wellFormed_iff, DescEntry.slot7At_iff, DescEntry.identityScaled_iff,
    DescEntry.coolant_iff, NSLOT, Nat.lt_succ_iff]

/-! ### The pinned parameters (R26) -/

/-- A signed entry reads its word as two's complement (R93). -/
theorem rawOf_signed {d : DescEntry} (h : d.signed = true) (w : Halfword) : rawOf d w = w.toInt := if_pos h

/-- A coolant entry gives the raw integer less 50, in thousandths, in whatever split of the bias (R26; log 8). -/
theorem scale_coolant {d : DescEntry} (h : d.coolant = true) (raw : Int) : scale d raw = 1000 * (raw - 50) := by
  obtain ⟨-, hmul, hdiv, hbias⟩ := (DescEntry.coolant_iff d).mp h
  simp only [scale, hmul, hdiv, tdiv_eq _ Int.one_pos, Int.tdiv_one, QSCALE]
  omega

/-- A pinned slot-7 parameter decodes to its word of slot 7 as a signed integer (R26). -/
theorem exec_decode_slot7At {s : State} {p off : Nat} {v : Frame} (hw : s.cfg.wellFormed = true)
    (hp : ∃ d, s.cfg.desc[p]? = some d ∧ d.slot7At off = true) (ho : off + 1 < 8) (hv : s.fs[7]? = some v) :
    exec (.decode p) s = .next (respond (okInt (1000 * (v.extractLsb' (8 * off) 16).toInt)) s) := by
  obtain ⟨d, hd, hpin⟩ := hp
  obtain ⟨hslot, hoff, hsigned, hid⟩ := (DescEntry.slot7At_iff off d).mp hpin
  have hr : memRead2 s.fs (8 * d.slot + d.off) = some (v.extractLsb' (8 * off) 16) := by
    rw [hslot, hoff]
    exact memRead2_slot hv ho
  rw [exec_decode_word hw hd hr, scale_identity hid, rawOf_signed hsigned]

/-- The coolant parameter decodes to the word its entry reads, as a signed integer, less 50 (R26). -/
theorem exec_decode_coolant {s : State} {p : Nat} {d : DescEntry} {w : Halfword} (hw : s.cfg.wellFormed = true)
    (hd : s.cfg.desc[p]? = some d) (hc : d.coolant = true) (hr : memRead2 s.fs (8 * d.slot + d.off) = some w) :
    exec (.decode p) s = .next (respond (okInt (1000 * (w.toInt - 50))) s) := by
  obtain ⟨hsigned, -⟩ := (DescEntry.coolant_iff d).mp hc
  rw [exec_decode_word hw hd hr, scale_coolant hc, rawOf_signed hsigned]

/-- Settles O31: R26 pins the entries, and W6 puts them in every well-formed configuration. -/
theorem pinnedParametersDecodeAsStated : Obligations.PinnedParametersDecodeAsStated := by
  intro s v hw hv
  obtain ⟨htrig, hfault, hfuel, d, hd, hc⟩ := Config.wellFormed_pinned hw
  constructor
  · have hA := exec_decode_slot7At hw htrig (by decide) hv
    have hB := exec_decode_slot7At hw hfault (by decide) hv
    have hC := exec_decode_slot7At hw hfuel (by decide) hv
    simp only [List.forall_mem_cons, List.not_mem_nil, false_implies, implies_true, and_true]
    exact ⟨hA, hB, hC⟩
  · obtain ⟨u, -, hr⟩ := memRead2_wellFormed s.fs (Config.wellFormed_entry hw hd)
    exact ⟨d, _, hd, hr, exec_decode_coolant hw hd hc hr⟩

/-! ### What a step changes (R22, R32) -/

/-- The inversion of a step that answers a next state: the block waits, is reset, answers a word without writing, or
takes an INGEST word whose frame is in order and writes the slot it names. -/
theorem step_next_cases {s t : State} (h : step s = .next t) :
    (s.host = [] ∧ t = s) ∨
    (∃ s', s = issue .reset s' ∧ t = setFs (Vector.replicate NSLOT 0#64) s') ∨
    (∃ w s' r, s = issue (.command w) s' ∧ t = respond r s') ∨
    ∃ f s', s = issue (.command (encodeFormatF 0x01#8 f)) s' ∧ malformed f = false ∧
      t = respond (okData 0#64) (setFs (writeSlot s'.fs (sidOf f) f) s') := by
  obtain ⟨hs, he⟩ | ⟨s', hs, he⟩ | ⟨w, why, s', hs, -, he⟩ | ⟨w, i, s', hs, hd, he⟩ := step_cases s
  · obtain ⟨-, hr⟩ := whenWellFormed_next.mp (he.symm.trans h)
    exact .inl ⟨hs, (Host.Outcome.next.inj hr).symm⟩
  · obtain ⟨-, hr⟩ := whenWellFormed_next.mp (he.symm.trans h)
    exact .inr (.inl ⟨s', hs, (Host.Outcome.next.inj hr).symm⟩)
  · obtain ⟨-, hr⟩ := whenWellFormed_next.mp (he.symm.trans h)
    exact .inr (.inr (.inl ⟨w, s', _, hs, (Host.Outcome.next.inj hr).symm⟩))
  · obtain ⟨r, ht, -⟩ | ⟨f, rfl, hm, ht⟩ := exec_next_cases (he.symm.trans h)
    · exact .inr (.inr (.inl ⟨w, s', r, hs, ht⟩))
    · obtain ⟨hop, hf⟩ := decode_ingest_iff.mp hd
      have hword : w = encodeFormatF 0x01#8 f := by rw [hf, ← hop, encodeFormatF_fields]
      exact .inr (.inr (.inr ⟨f, s', hword ▸ hs, hm, ht⟩))

/-- No step changes the configuration (R32). -/
theorem step_next_cfg {s t : State} (h : step s = .next t) : t.cfg = s.cfg := by
  obtain ⟨-, rfl⟩ | ⟨s', rfl, rfl⟩ | ⟨w, s', r, rfl, rfl⟩ | ⟨f, s', rfl, -, rfl⟩ := step_next_cases h <;> rfl

/-- Settles O43, from the frame of a step and of a command. -/
theorem configurationNeverChanges : Obligations.ConfigurationNeverChanges :=
  fun _ _ => ⟨step_next_cfg, fun _ h => (exec_next_frame h).1⟩

/-- A command other than INGEST writes no register (R22). -/
theorem exec_next_fs {i : Instr} {s t : State} (hi : ∀ f, i ≠ .ingest f) (h : exec i s = .next t) : t.fs = s.fs := by
  obtain ⟨r, rfl, -⟩ | ⟨f, hf, -⟩ := exec_next_cases h
  · rfl
  · exact absurd hf (hi f)

/-- Settles O41: the frame of every command, with the registers, and so their bytes, unchanged. -/
theorem otherCommandsChangeNothingButTheResponse : Obligations.OtherCommandsChangeNothingButTheResponse := by
  intro i s t hi h
  have hfs := exec_next_fs hi h
  exact ⟨hfs, fun a => by rw [hfs], exec_next_frame h⟩

/-- Settles O42, by what the step did: waiting and answering change no slot, reset and INGEST write what is said. -/
theorem slotChangesOnlyByResetOrItsOwnFrame : Obligations.SlotChangesOnlyByResetOrItsOwnFrame := by
  intro s t slot h hne
  obtain ⟨-, rfl⟩ | ⟨s', rfl, rfl⟩ | ⟨w, s', r, rfl, rfl⟩ | ⟨f, s', rfl, hm, rfl⟩ := step_next_cases h
  · exact absurd rfl hne
  · have hslot : slot < NSLOT := by
      by_contra hge
      exact hne (by simp [Nat.not_lt.mp hge])
    exact .inl ⟨s'.host, rfl, by simp [hslot]⟩
  · exact absurd rfl hne
  · have hslot : slot = sidOf f := by
      by_contra hother
      exact hne (writeSlot_other s'.fs f hother)
    subst hslot
    obtain ⟨hsid, hrsv⟩ := (malformed_eq_false_iff f).mp hm
    exact .inr ⟨f, s'.host, rfl, rfl, hrsv, writeSlot_same s'.fs f hsid⟩

/-! ### Reset and the slot invariant (R37, R38) -/

/-- After reset every byte of the address space is zero (R37). -/
theorem memByte_resetWith (c : Config) {a : Nat} (ha : a < 112) : memByte (State.resetWith c).fs a = some 0#8 := by
  have hslot : a / 8 < NSLOT := by simp only [NSLOT]; omega
  simp [memByte, hslot, byteOf]

/-- Settles O15: reset writes zero into every slot, and a byte is a slice of one slot. -/
theorem resetLeavesEveryByteZero : Obligations.ResetLeavesEveryByteZero :=
  ⟨fun slot => Vector.getElem_replicate slot.isLt, fun _ ha => memByte_resetWith Config.placeholder ha⟩

/-- A register file of zeros meets the invariant of R38. -/
theorem frameFileInv_zero : FrameFileInv (Vector.replicate NSLOT 0#64) := by
  intro slot v hv
  rw [Vector.getElem?_replicate, Option.ite_none_right_eq_some] at hv
  obtain ⟨-, ⟨⟩⟩ := hv
  exact ⟨rfl, .inl rfl⟩

/-- Storing an accepted frame in the slot it names keeps the invariant of R38 (R80, R81). -/
theorem frameFileInv_writeSlot {fs : FrameFile} {f : Frame} (h : FrameFileInv fs) (hm : malformed f = false) :
    FrameFileInv (writeSlot fs (sidOf f) f) := by
  intro slot v hv
  obtain ⟨hsid, hrsv⟩ := (malformed_eq_false_iff f).mp hm
  by_cases hslot : slot = sidOf f
  · subst hslot
    obtain rfl := Option.some.inj ((writeSlot_same fs f hsid).symm.trans hv)
    exact ⟨hrsv, .inr rfl⟩
  · exact h slot v ((writeSlot_other fs f hslot).symm.trans hv)

/-- Reset establishes the invariant, with any well-formed configuration (R37, R38). -/
theorem inv_resetWith {c : Config} (hw : c.wellFormed = true) : Inv (State.resetWith c) := ⟨hw, frameFileInv_zero⟩

/-- Settles O16; the placeholder configuration is well-formed (log 2). -/
theorem resetMeetsTheSlotInvariant : Obligations.ResetMeetsTheSlotInvariant :=
  ⟨inv_resetWith (by decide), fun _ => inv_resetWith⟩

/-- Settles O48, by what the step did: reset writes zeros, INGEST an accepted frame, and nothing else writes. -/
theorem stepKeepsTheSlotInvariant : Obligations.StepKeepsTheSlotInvariant := by
  rintro s t ⟨hw, hfs⟩ h
  refine ⟨(congrArg Config.wellFormed (step_next_cfg h)).trans hw, ?_⟩
  obtain ⟨-, rfl⟩ | ⟨s', rfl, rfl⟩ | ⟨w, s', r, rfl, rfl⟩ | ⟨f, s', rfl, hm, rfl⟩ := step_next_cases h
  · exact hfs
  · exact frameFileInv_zero
  · exact hfs
  · exact frameFileInv_writeSlot hfs hm

/-! ### The two port lists (R34, R36)

A command commutes with appending events to the host's pending ones and responses to the earlier ones, so it reads
neither list. -/

/-- The state with `host` appended to the pending events and `responses` to the responses given so far. -/
def extendPort (host : List HostEvent) (responses : List Response) (s : State) : State :=
  { s with host := s.host ++ host, responses := s.responses ++ responses }

/-- The result with the same two lists appended in its next state, if it is one. -/
def extendResult (host : List HostEvent) (responses : List Response) : Result → Result
  | .next s => .next (extendPort host responses s)
  | .fault r => .fault r
  | .refused r => .refused r

section
variable {host : List HostEvent} {responses : List Response} {s : State}

@[simp] theorem extendPort_fs : (extendPort host responses s).fs = s.fs := rfl
@[simp] theorem extendPort_cfg : (extendPort host responses s).cfg = s.cfg := rfl

@[simp] theorem setFs_extendPort {fs : FrameFile} :
    setFs fs (extendPort host responses s) = extendPort host responses (setFs fs s) := rfl

@[simp] theorem answer_extendPort (r : Response) :
    answer r (extendPort host responses s) = extendResult host responses (answer r s) := rfl

@[simp] theorem fail_extendPort (st : Status) :
    fail st (extendPort host responses s) = extendResult host responses (fail st s) := rfl

@[simp] theorem whenWellFormed_extendPort (run : Result) :
    whenWellFormed (extendPort host responses s) (extendResult host responses run) =
      extendResult host responses (whenWellFormed s run) := by
  unfold whenWellFormed
  rw [extendPort_cfg]
  split <;> rfl

@[simp] theorem lookup_extendPort {α : Type} {n : Nat} (table : Vector α n) (id : Nat) (found : α → Result) :
    lookup table id (extendPort host responses s) (fun e => extendResult host responses (found e)) =
      extendResult host responses (lookup table id s found) := by
  unfold lookup
  split <;> rfl

@[simp] theorem extract_extendPort (d : DescEntry) (found : Halfword → Result) :
    extract d (extendPort host responses s) (fun w => extendResult host responses (found w)) =
      extendResult host responses (extract d s found) := by
  unfold extract
  rw [extendPort_fs]
  split <;> rfl

@[simp] theorem bitFieldWord_extendPort (p : Nat) (found : Halfword → Result) :
    bitFieldWord p (extendPort host responses s) (fun w => extendResult host responses (found w)) =
      extendResult host responses (bitFieldWord p s found) := by
  unfold bitFieldWord
  rw [extendPort_cfg]
  split
  · exact extract_extendPort _ found
  · rfl

/-- Every command commutes with extending the two lists of the port. -/
theorem exec_extendPort (i : Instr) :
    exec i (extendPort host responses s) = extendResult host responses (exec i s) := by
  cases i with
  | ingest f => simp [exec, execIngest, ← apply_ite]
  | decode id => simp [exec, execDecode]
  | limitFlag id => simp [exec, execLimitFlag, ← apply_ite]
  | featStat id => simp [exec, execFeatStat]
  | pName id | pUnit id | pDec id | pMin id | pMax id | lfName id | faultDesc id =>
    simp [exec, execPName, execPUnit, execPDec, execPMin, execPMax, execLfName, execFaultDesc]

end

/-- With a well-formed configuration a command gives one response and leaves a register file, and does nothing else
(R14, R22). -/
theorem exec_eq_respond_setFs (i : Instr) {s : State} (hw : s.cfg.wellFormed = true) :
    ∃ r fs, exec i s = .next (respond r (setFs fs s)) := by
  obtain ⟨r, h, -⟩ | ⟨f, -, -, h⟩ := exec_answers i hw
  · exact ⟨r, s.fs, h⟩
  · exact ⟨_, _, h⟩

/-- Settles O47: the outcome is the one from the state with both lists empty, and every such state extends that one. -/
theorem commandDependsOnConfigurationAndRegistersOnly : Obligations.CommandDependsOnConfigurationAndRegistersOnly := by
  intro i s hw
  obtain ⟨r, fs, h⟩ := exec_eq_respond_setFs i (s := { s with host := [], responses := [] }) hw
  refine ⟨r, fs, fun host responses => ?_⟩
  calc exec i { s with host := host, responses := responses }
      = exec i (extendPort host responses { s with host := [], responses := [] }) := rfl
    _ = extendResult host responses (exec i { s with host := [], responses := [] }) := exec_extendPort i
    _ = .next { s with fs := fs, host := host, responses := r :: responses } := by rw [h]; rfl

end Sys2Proof.Machine

/-! The statements of 20_memory.md: the byte view of the registers (R40 to R46) and its list of cells, the bytes a
command stores and leaves (R22, R41, R81), and what a sequence of host events leaves in each slot (R48). -/

namespace Sys2Proof.Machine

/-! ### The byte view (R40 to R46) -/

/-- Settles O51: below 112 the address names a slot that is there. -/
theorem addressSpaceIsTheBytesOfTheRegisters : Obligations.AddressSpaceIsTheBytesOfTheRegisters := by
  intro fs a
  refine ⟨fun ha => ?_, memByte_eq_none_iff.mpr⟩
  have hslot : a / 8 < NSLOT := by simp only [NSLOT]; omega
  exact ⟨fs[a / 8], by simp [hslot], by simp [memByte, hslot, byteOf]⟩

/-- Settles O50: the word and its two bytes are slices of one register, and the word is their concatenation. -/
theorem wordReadIsLittleEndianAndInsideOneSlot : Obligations.WordReadIsLittleEndianAndInsideOneSlot := by
  intro fs slot off hoff
  have ho : off + 1 < 8 := by
    simp only [List.mem_cons, List.not_mem_nil, or_false] at hoff
    omega
  have hv : fs[(slot : Nat)]? = some fs[slot] := Vector.getElem?_eq_getElem slot.isLt
  refine ⟨_, _, _, memByte_slot hv (by omega), memByte_slot hv ho, memRead2_slot hv ho, rfl, ?_⟩
  rw [← byteOf_append]
  exact toNat_append _ _

/-- Two frames with the same eight bytes are equal (R20, R21). -/
theorem frame_ext {v w : Frame} (h : ∀ b < 8, byteOf v b = byteOf w b) : v = w := by
  apply BitVec.eq_of_getLsbD_eq
  intro i hi
  have hbit := congrArg (fun x => x.getLsbD (i % 8)) (h (i / 8) (by omega))
  simp only [byteOf, BitVec.getLsbD_extractLsb', Nat.div_add_mod] at hbit
  simpa [Nat.mod_lt] using hbit

/-- Two register files with the same 112 bytes are equal (R40). -/
theorem frameFile_ext {fs gs : FrameFile} (h : ∀ a < 112, memByte fs a = memByte gs a) : fs = gs := by
  ext slot hslot : 1
  refine frame_ext fun b hb => ?_
  have ha : 8 * slot + b < 112 := by simp only [NSLOT] at hslot; omega
  have hbyte := h (8 * slot + b) ha
  rw [memByte_slot (Vector.getElem?_eq_getElem hslot) hb, memByte_slot (Vector.getElem?_eq_getElem hslot) hb] at hbyte
  exact Option.some.inj hbyte

/-! ### The list of cells (R40, R46; log 16) -/

/-- A cell is in the list exactly when it is the cell of its own address. -/
theorem mem_cells {fs : FrameFile} {cell : Host.Cell} : cell ∈ cells fs ↔ cellAt fs cell.1 = some cell := by
  constructor
  · intro hmem
    obtain ⟨a, -, ha⟩ := List.mem_filterMap.mp hmem
    obtain ⟨rfl, -⟩ := cellAt_some ha
    exact ha
  · intro h
    obtain ⟨-, -, hbyte⟩ := cellAt_some h
    have hlt : cell.1 < NBYTES := by
      by_contra hge
      simp [memByte_eq_none_iff.mpr (Nat.not_lt.mp hge)] at hbyte
    exact List.mem_filterMap.mpr ⟨cell.1, List.mem_range.mpr hlt, h⟩

/-- Searching the list for an address finds the cell of that address. -/
theorem find?_cells (fs : FrameFile) (a : Nat) : (cells fs).find? (fun cell => cell.1 == a) = cellAt fs a := by
  cases hf : (cells fs).find? (fun cell => cell.1 == a) with
  | some cell =>
    obtain rfl : cell.1 = a := by simpa using List.find?_some hf
    exact (mem_cells.mp (List.mem_of_find?_eq_some hf)).symm
  | none =>
    refine (Option.eq_none_iff_forall_ne_some.mpr fun cell hcell => ?_).symm
    obtain ⟨rfl, -⟩ := cellAt_some hcell
    exact List.find?_eq_none.mp hf cell (mem_cells.mpr hcell) (beq_self_eq_true _)

/-- The list reads as the registers at every address that has a byte. -/
theorem cellsRead_cells {fs : FrameFile} {a : Nat} {x : Byte} (h : memByte fs a = some x) :
    cellsRead (cells fs) a = x := by
  rw [cellsRead, find?_cells, cellAt, h, Option.bind_some]
  split
  · exact (‹x = unlistedByte›).symm
  · rfl

/-- Below 112 the registers hold the byte the list reads as (R40). -/
theorem memByte_eq_cellsRead (fs : FrameFile) {a : Nat} (ha : a < 112) :
    memByte fs a = some (cellsRead (cells fs) a) := by
  obtain ⟨hbyte, -⟩ := addressSpaceIsTheBytesOfTheRegisters fs a
  obtain ⟨v, -, hv⟩ := hbyte ha
  rw [cellsRead_cells hv, hv]

/-- Settles O52: the list gives back every byte, and the bytes give back the registers. -/
theorem cellListIsCanonicalAndFaithful : Obligations.CellListIsCanonicalAndFaithful := by
  refine ⟨fun fs => ⟨cells_wf fs, fun a ha => memByte_eq_cellsRead fs ha⟩, fun fs gs h => ?_⟩
  refine frameFile_ext fun a ha => ?_
  rw [memByte_eq_cellsRead fs ha, h, ← memByte_eq_cellsRead gs ha]

/-! ### What commands do to the bytes (R22, R41, R81) -/

/-- Settles O18, by whether the frame is malformed; an accepted one is written to the slot it names. -/
theorem ingestStoresEightBytesAtEightTimesSid : Obligations.IngestStoresEightBytesAtEightTimesSid := by
  intro f s t h
  have hw := exec_next_wellFormed h
  refine ⟨fun hm a => ?_, fun hm a => ?_, exec_next_frame h⟩
  · obtain rfl := Host.Outcome.next.inj ((exec_ingest_accepted hw hm).symm.trans h)
    obtain ⟨hsid, -⟩ := (malformed_eq_false_iff f).mp hm
    constructor
    · rintro b hb rfl
      exact memByte_slot (writeSlot_same s.fs f hsid) hb
    · intro hout
      exact memByte_writeSlot_other s.fs f (by omega)
  · obtain rfl := Host.Outcome.next.inj ((exec_ingest_malformed hw hm).symm.trans h)
    rfl

/-- A command that only looks an entry up and answers from it gives the same response whatever the registers hold. -/
theorem answered_lookup_setFs {α : Type} {n : Nat} (table : Vector α n) (id : Nat) (r : α → Response)
    (fs : FrameFile) (s : State) :
    answered (whenWellFormed (setFs fs s) (lookup table id (setFs fs s) fun e => answer (r e) (setFs fs s))) =
      answered (whenWellFormed s (lookup table id s fun e => answer (r e) s)) := by
  unfold whenWellFormed lookup
  rw [setFs_cfg]
  split
  · split <;> rfl
  · rfl

/-- The seven lookups (R125 to R131). -/
def lookups (id : Nat) : List Instr :=
  [.pName id, .pUnit id, .pDec id, .pMin id, .pMax id, .lfName id, .faultDesc id]

/-- The response of a lookup does not depend on the registers (R40). -/
theorem answered_lookups_setFs {id : Nat} {i : Instr} (hi : i ∈ lookups id) (fs : FrameFile) (s : State) :
    answered (exec i (setFs fs s)) = answered (exec i s) := by
  simp only [lookups, List.mem_cons, List.not_mem_nil, or_false] at hi
  rcases hi with rfl | rfl | rfl | rfl | rfl | rfl | rfl <;> exact answered_lookup_setFs _ id _ fs s

theorem lookups_ne_ingest {id : Nat} {i : Instr} (hi : i ∈ lookups id) (f : Frame) : i ≠ .ingest f := by
  rintro rfl
  simp [lookups] at hi

/-- Settles O40: each of the seven answers from its table alone, and none of them is INGEST. -/
theorem lookupsDoNotTouchTheFrameFile : Obligations.LookupsDoNotTouchTheFrameFile :=
  fun s fs _ _ hi => ⟨answered_lookups_setFs hi fs s, fun _ => exec_next_fs (lookups_ne_ingest hi)⟩

/-! ### A sequence of host events (R48) -/

/-- An accepted INGEST word writes its frame into the slot it names, and no other slot (R80). -/
theorem writes_accepted {w : CmdWord} {f : Frame} (hd : decode w = .ok (.ingest f)) (hm : malformed f = false)
    (slot : Nat) : writes slot (.command w) = if slot = sidOf f then some f else none := by
  obtain ⟨hop, rfl⟩ := decode_ingest_iff.mp hd
  obtain ⟨-, hrsv⟩ := (malformed_eq_false_iff _).mp hm
  simp [writes, hop, hrsv, eq_comm]

/-- A word that is no accepted INGEST writes no slot (R22, R81). -/
theorem writes_notAccepted {w : CmdWord} (hno : ∀ f, decode w = .ok (.ingest f) → malformed f = true) {slot : Nat}
    (hslot : slot < NSLOT) : writes slot (.command w) = none := by
  refine if_neg ?_
  rintro ⟨hop, rfl, hrsv⟩
  have hok : malformed (CmdWord.arg w) = false := (malformed_eq_false_iff _).mpr ⟨hslot, hrsv⟩
  exact Bool.false_ne_true (hok.symm.trans (hno _ (decode_formatF hop)))

/-- A word that is no accepted INGEST is answered, and nothing is written (R22, R67). -/
theorem step_issue_notAccepted {w : CmdWord} {s : State} (hw : s.cfg.wellFormed = true)
    (hno : ∀ f, decode w = .ok (.ingest f) → malformed f = true) :
    ∃ r, step (issue (.command w) s) = .next (respond r s) := by
  cases hd : decode w with
  | error why => exact ⟨_, (step_illegalWord hd s).trans (answerIllegal_wellFormed hw)⟩
  | ok i =>
    rw [step_command hd]
    obtain ⟨r, h, -⟩ | ⟨f, rfl, hm, -⟩ := exec_answers i hw
    · exact ⟨r, h⟩
    · simp [hno f hd] at hm

/-- `t` is what `s` becomes when the events are taken, as far as R48 says: the configuration is kept, each slot holds
its latest write, and each command word has added one response. The pending events are not looked at. -/
structure Takes (events : List HostEvent) (s t : State) : Prop where
  cfg : t.cfg = s.cfg
  slots : ∀ (slot : Nat) (v : Frame), s.fs[slot]? = some v → t.fs[slot]? = some ((latestWrite slot events).getD v)
  count : t.responses.length = s.responses.length + commandCount events
  kept : s.responses <:+ t.responses

/-- The latest write of one event is the event's own (R48). -/
theorem latestWrite_singleton (slot : Nat) (e : HostEvent) : latestWrite slot [e] = writes slot e := by
  cases h : writes slot e <;> simp [latestWrite, h]

/-- The latest write of a sequence is that of its second part, if there is one (R48). -/
theorem latestWrite_append (slot : Nat) (es es' : List HostEvent) :
    latestWrite slot (es ++ es') = (latestWrite slot es').or (latestWrite slot es) := by
  simp [latestWrite, List.getLast?_append]

theorem commandCount_append (es es' : List HostEvent) :
    commandCount (es ++ es') = commandCount es + commandCount es' := by
  simp [commandCount]

theorem takes_nil (s : State) : Takes [] s s :=
  ⟨rfl, fun _ _ hv => hv, rfl, List.suffix_rfl⟩

theorem Takes.append {es es' : List HostEvent} {s t u : State} (h : Takes es s t) (h' : Takes es' t u) :
    Takes (es ++ es') s u where
  cfg := h'.cfg.trans h.cfg
  slots slot v hv := by
    rw [h'.slots slot _ (h.slots slot v hv), latestWrite_append]
    cases latestWrite slot es' <;> rfl
  count := by rw [h'.count, h.count, commandCount_append, Nat.add_assoc]
  kept := h.kept.trans h'.kept

/-- Reset writes zero into every slot and gives no response (R37, R161). -/
theorem takes_reset (s : State) : Takes [.reset] s (setFs (Vector.replicate NSLOT 0#64) s) where
  cfg := rfl
  slots slot v hv := by
    obtain ⟨hslot, -⟩ := Vector.getElem?_eq_some_iff.mp hv
    simp [latestWrite_singleton, writes, hslot]
  count := rfl
  kept := List.suffix_rfl

theorem takes_accepted {w : CmdWord} {f : Frame} (hd : decode w = .ok (.ingest f)) (hm : malformed f = false)
    (r : Response) (s : State) : Takes [.command w] s (respond r (setFs (writeSlot s.fs (sidOf f) f) s)) where
  cfg := rfl
  slots slot v hv := by
    obtain ⟨hsid, -⟩ := (malformed_eq_false_iff f).mp hm
    rw [latestWrite_singleton, writes_accepted hd hm, respond_fs, setFs_fs, writeSlot_getElem?]
    by_cases h : slot = sidOf f
    · simp [h, hsid]
    · simp [h, hv]
  count := rfl
  kept := List.suffix_cons r _

theorem takes_notAccepted {w : CmdWord} (hno : ∀ f, decode w = .ok (.ingest f) → malformed f = true)
    (r : Response) (s : State) : Takes [.command w] s (respond r s) where
  cfg := rfl
  slots slot v hv := by
    obtain ⟨hslot, -⟩ := Vector.getElem?_eq_some_iff.mp hv
    rw [latestWrite_singleton, writes_notAccepted hno hslot, respond_fs, hv, Option.getD_none]
  count := rfl
  kept := List.suffix_cons r _

/-- One event, taken by a block that runs. -/
theorem step_issue_takes (e : HostEvent) {s : State} (hw : s.cfg.wellFormed = true) :
    ∃ t, step (issue e s) = .next t ∧ t.host = s.host ∧ Takes [e] s t := by
  cases e with
  | reset => exact ⟨_, (step_resetEvent s).trans (resetBlock_wellFormed hw), rfl, takes_reset s⟩
  | command w =>
    by_cases hacc : ∃ f, decode w = .ok (.ingest f) ∧ malformed f = false
    · obtain ⟨f, hd, hm⟩ := hacc
      exact ⟨_, (step_command hd s).trans (exec_ingest_accepted hw hm), rfl, takes_accepted hd hm _ s⟩
    · have hno : ∀ f, decode w = .ok (.ingest f) → malformed f = true := by simpa using hacc
      obtain ⟨r, h⟩ := step_issue_notAccepted hw hno
      exact ⟨_, h, rfl, takes_notAccepted hno r s⟩

theorem run_succ_next {k : Nat} {s t : State} (h : step s = .next t) :
    Host.Core.run core (k + 1) s = Host.Core.run core k t := by
  have hc : core.step s = .next t := h
  simp only [Host.Core.run, hc]

/-- A run of as many steps as there are pending events takes all of them, by induction on the events. -/
theorem run_takes (events : List HostEvent) {s : State} (hw : s.cfg.wellFormed = true) (hs : s.host = events) :
    ∃ t, Host.Core.run core events.length s = .next t ∧ t.host = [] ∧ Takes events s t := by
  induction events generalizing s with
  | nil => exact ⟨s, rfl, hs, takes_nil s⟩
  | cons e rest ih =>
    rw [eq_issue hs]
    obtain ⟨t, hstep, hhost, hone⟩ := step_issue_takes e (s := { s with host := rest }) hw
    obtain ⟨u, hrun, hdone, hrest⟩ := ih (hone.cfg ▸ hw) hhost
    have hall : Takes (e :: rest) { s with host := rest } u := hone.append hrest
    exact ⟨u, (run_succ_next hstep).trans hrun, hdone, hall.cfg, hall.slots, hall.count, hall.kept⟩

/-- Settles O49, from the run that takes all the events. -/
theorem eachSlotHoldsItsLatestWrite : Obligations.EachSlotHoldsItsLatestWrite := by
  intro s hw
  obtain ⟨t, hrun, hdone, h⟩ := run_takes s.host hw rfl
  exact ⟨t, hrun, hdone, h.cfg, h.slots, h.count, h.kept⟩

end Sys2Proof.Machine

/-! The statements of 30_encoding.md: commands and their words (R60 to R63), the opcode map and the illegal words (R61,
R67), the response word (R64, R65) and the assembler (R69, R70). -/

/-! ### Commands and their words (R60, R61) -/

namespace Sys2Proof

/-- Every command is INGEST or a row of format I (R61). -/
theorem Instr.formats (i : Instr) : (∃ f, i = .ingest f) ∨ ∃ row ∈ formatIRows, ∃ id, i = row.2 id := by
  cases i with
  | ingest f => exact .inl ⟨f, rfl⟩
  | decode id | limitFlag id | featStat id | pName id | pUnit id | pDec id | pMin id | pMax id | lfName id
  | faultDesc id => exact .inr (by simp [formatIRows])

section
variable {row : BitVec 8 × (Nat → Instr)}

/-- The encoder on a row of format I. -/
theorem encode_formatI_row (hrow : row ∈ formatIRows) (id : Nat) : encode (row.2 id) = encodeFormatI row.1 id := by
  revert row
  simp [formatIRows, encode]

/-- A command of format I is well-formed when its identifier fits the field (R60). -/
theorem wellFormed_formatI_row (hrow : row ∈ formatIRows) (id : Nat) :
    (row.2 id).wellFormed = true ↔ id < 2 ^ 16 := by
  revert row
  simp [formatIRows, Instr.wellFormed, Instr.ident?]

/-- A word of format I decodes to the command of its row. -/
theorem decode_encodeFormatI (hrow : row ∈ formatIRows) {id : Nat} (hid : id < 2 ^ 16) :
    decode (encodeFormatI row.1 id) = .ok (row.2 id) := by
  rw [decode_formatI_row hrow (opcode_encodeFormatI row.1 id), decodeFormatI_ok]
  exact ⟨reserved_encodeFormatI row.1 id, by rw [ident_encodeFormatI row.1 hid]⟩

end

/-- Settles O2, by the two formats; the fields of an encoded word read back. -/
theorem decodeOfEncodeIsTheCommand : Obligations.DecodeOfEncodeIsTheCommand := by
  intro i hi
  obtain ⟨f, rfl⟩ | ⟨row, hrow, id, rfl⟩ := i.formats
  · exact decode_ingest_iff.mpr ⟨opcode_encodeFormatF _ f, (arg_encodeFormatF _ f).symm⟩
  · rw [encode_formatI_row hrow]
    exact decode_encodeFormatI hrow ((wellFormed_formatI_row hrow id).mp hi)

/-- Settles O3, by the two formats; a word is put together from its fields. -/
theorem legalWordIsTheEncodingOfItsCommand : Obligations.LegalWordIsTheEncodingOfItsCommand := by
  intro w i h
  obtain ⟨hop, rfl⟩ | ⟨hres, row, hrow, hop, rfl⟩ := decode_ok_cases h
  · exact ⟨rfl, by rw [encode, ← hop, encodeFormatF_fields]⟩
  · refine ⟨(wellFormed_formatI_row hrow _).mpr (ident_lt w), ?_⟩
    rw [encode_formatI_row hrow, ← hop, encodeFormatI_fields hres]

/-- Settles O1: each legal word is the encoding of its command, and the decoder evaluates on the two illegal ones. -/
theorem specWordsDecodeToTheirCommands : Obligations.SpecWordsDecodeToTheirCommands :=
  have legal := decodeOfEncodeIsTheCommand
  ⟨legal (.ingest 0x012C000F00000007#64) rfl, legal (.decode 23) rfl, legal (.limitFlag 15) rfl,
    legal (.featStat 2) rfl, legal (.pName 40) rfl, legal (.pUnit 41) rfl, legal (.pDec 41) rfl, legal (.pMin 8) rfl,
    legal (.pMax 41) rfl, legal (.lfName 15) rfl, legal (.faultDesc 65535) rfl, rfl, rfl⟩

/-! ### The opcode map in its match-and-mask form (R61) -/

/-- The mask of format F selects the words with the opcode of the match. -/
theorem and_maskF_eq_iff (w : CmdWord) (op : BitVec 8) :
    w &&& 0xFF0000000000000000#72 = op ++ 0#64 ↔ CmdWord.opcode w = op := by
  rw [and_maskF, append_eq_append_iff, and_iff_left rfl]

/-- The mask of format I selects the words with the opcode of the match and no reserved bit set. -/
theorem and_maskI_eq_iff (w : CmdWord) (op : BitVec 8) :
    w &&& 0xFFFFFFFFFFFFFF0000#72 = op.setWidth 72 <<< 64 ↔ CmdWord.opcode w = op ∧ CmdWord.reserved w = 0 := by
  have hmatch : op.setWidth 72 <<< 64 = op ++ (0#48 ++ 0#16) := by
    rw [BitVec.shiftLeft_eq_concat_of_lt (by decide), BitVec.extractLsb'_setWidth_of_le (by decide),
      BitVec.extractLsb'_eq_self]
    rfl
  rw [hmatch, and_maskI, append_eq_append_iff, append_eq_append_iff, and_iff_left rfl]
  rfl

/-- A command of format I is read exactly from the words of its row, with the identifier they carry (R60, R61). -/
theorem decode_formatI_iff {row : BitVec 8 × (Nat → Instr)} (hrow : row ∈ formatIRows) (w : CmdWord) (id : Nat) :
    decode w = .ok (row.2 id) ↔
      (CmdWord.opcode w = row.1 ∧ CmdWord.reserved w = 0) ∧ id = CmdWord.ident w := by
  constructor
  · intro h
    obtain ⟨hwf, rfl⟩ := legalWordIsTheEncodingOfItsCommand w _ h
    rw [encode_formatI_row hrow]
    have hid := (wellFormed_formatI_row hrow id).mp hwf
    exact ⟨⟨opcode_encodeFormatI _ id, reserved_encodeFormatI _ id⟩, (ident_encodeFormatI _ hid).symm⟩
  · rintro ⟨⟨hop, hres⟩, rfl⟩
    exact (decode_formatI_row hrow hop).trans (decodeFormatI_ok.mpr ⟨hres, rfl⟩)

/-- Settles O4: the masks select the opcode and the reserved bits, which is what the decoder tests. -/
theorem opcodeMapInMatchAndMaskForm : Obligations.OpcodeMapInMatchAndMaskForm := by
  constructor
  · intro w f
    exact decode_ingest_iff.trans (and_congr_left' (and_maskF_eq_iff w 0x01#8).symm)
  · show ∀ row ∈ formatIRows.map fun row => (row.1.setWidth 72, row.2), _
    rw [List.forall_mem_map]
    intro row hrow w id
    exact (decode_formatI_iff hrow w id).trans (and_congr_left' (and_maskI_eq_iff w row.1).symm)

end Sys2Proof

/-! ### Illegal words and the response word (R64, R65, R67) -/

namespace Sys2Proof.Machine

section
variable {s : State}

/-- An illegal word is answered ILLEGAL and changes nothing else (R67). -/
theorem step_issue_illegal {w : CmdWord} (hw : s.cfg.wellFormed = true) (h : ∃ why, decode w = .error why) :
    step (issue (.command w) s) = .next (respond (failureResponse .illegal) s) := by
  obtain ⟨why, hd⟩ := h
  exact (step_illegalWord hd s).trans (answerIllegal_wellFormed hw)

/-- The one failure of a legal command is REJECT or NORESULT (R145). -/
theorem failStatus_ne_illegal (i : Instr) : failStatus i ≠ .illegal := by
  cases i <;> simp [failStatus]

/-- No command is answered ILLEGAL (R67, R145). -/
theorem exec_status_ne_illegal (i : Instr) (hw : s.cfg.wellFormed = true) :
    ∃ t r, exec i s = .next t ∧ t.responses = r :: s.responses ∧ r.status ≠ .illegal := by
  obtain ⟨r, h, hok | rfl⟩ | ⟨f, -, -, h⟩ := exec_answers i hw
  · exact ⟨_, r, h, rfl, by simp [hok]⟩
  · exact ⟨_, _, h, rfl, failStatus_ne_illegal i⟩
  · exact ⟨_, _, h, rfl, by simp⟩

/-- An INGEST word whose byte 1 is not zero is no illegal word but a malformed frame (R67, R81). -/
theorem step_issue_reservedByte {w : CmdWord} (hw : s.cfg.wellFormed = true) (hop : CmdWord.opcode w = 0x01#8)
    (hrsv : rsvOf (CmdWord.arg w) ≠ 0) :
    step (issue (.command w) s) = .next (respond (failureResponse .reject) s) :=
  (step_command (decode_formatF hop) s).trans
    (exec_ingest_malformed hw ((malformed_iff _).mpr (.inr hrsv)))

end

/-- Byte 1 of the frame of a word is byte 1 of the word (R60). -/
theorem rsvOf_arg (w : CmdWord) : rsvOf (CmdWord.arg w) = w.extractLsb' 8 8 :=
  BitVec.extractLsb'_extractLsb'_of_le (by decide)

/-- Settles O5, by the outcome of the decoder, whose errors are the two clauses of R67. -/
theorem illegalWordsAndOnlyTheyAreAnsweredIllegal : Obligations.IllegalWordsAndOnlyTheyAreAnsweredIllegal := by
  intro w s rest hw hs op illegalWord
  have herror : (∃ why, decode w = .error why) ↔ illegalWord := decode_error_iff w
  rw [eq_issue hs]
  refine ⟨fun h => step_issue_illegal hw (herror.mpr h), fun h => ?_, fun hop hrsv => ?_⟩
  · cases hd : decode w with
    | error why => exact absurd (herror.mp ⟨why, hd⟩) h
    | ok i =>
      have hstep := step_command hd { s with host := rest }
      obtain ⟨t, r, ht, hr, hne⟩ := exec_status_ne_illegal i (s := { s with host := rest }) hw
      exact ⟨i, t, r, rfl, hstep, hstep.trans ht, hr, hne⟩
  · exact step_issue_reservedByte hw (BitVec.eq_of_toNat_eq hop) (rsvOf_arg w ▸ hrsv)

/-- Settles O6: STATUS and DATA are the two parts of the word; the codes are the table of R65. -/
theorem responseWordCarriesStatusAboveData : Obligations.ResponseWordCarriesStatusAboveData := by
  intro r
  refine ⟨BitVec.extractLsb'_append_eq_left, BitVec.extractLsb'_append_eq_right, ?_⟩
  cases r.status <;> rfl

/-! ### The assembler (R69, R70) -/

/-- The mnemonics of R69 are the rows of format I. -/
theorem IdentOp.instr_mem_formatIRows (op : IdentOp) : ∃ row ∈ formatIRows, op.instr = row.2 := by
  cases op <;> simp [formatIRows, IdentOp.instr]

/-- A line that is no error stands for a command whose identifier fits the field, by the range test of R69. -/
theorem AsmLine.plain_wellFormed {l : AsmLine} {i : Instr} (h : l.plain = some i) : i.wellFormed = true := by
  cases l with
  | ingest b0 b1 b2 b3 b4 b5 b6 b7 =>
    simp only [AsmLine.plain] at h
    split at h <;> cases h
    rfl
  | ident op p =>
    obtain ⟨hp, rfl⟩ := Option.ite_none_right_eq_some.mp h |>.imp_right Option.some.inj
    obtain ⟨row, hrow, hinstr⟩ := op.instr_mem_formatIRows
    rw [hinstr, wellFormed_formatI_row hrow]
    omega
  | ingestW s wa wb wc => cases h
  | featStat t => cases h
  | decode p => cases h

/-- Settles O7: the command of a line is well-formed, and a well-formed command reads back from its word. -/
theorem assemblerProducesOnlyLegalWords : Obligations.AssemblerProducesOnlyLegalWords := by
  intro c l w h
  obtain ⟨i, hi, rfl⟩ := Option.map_eq_some_iff.mp h
  obtain ⟨plainLine, -, hplain⟩ := Option.bind_eq_some_iff.mp hi
  exact ⟨i, decodeOfEncodeIsTheCommand i (AsmLine.plain_wellFormed hplain), hi⟩

/-! ### The fields of a frame (R63) -/

section
variable (sid rsv : Byte) (a b c : Halfword)

/-- The two bytes below the words of a frame. -/
theorem extractLsb'_mkFrame_of_le {start len : Nat} (h : start + len ≤ 16) :
    (mkFrame sid rsv a b c).extractLsb' start len = (rsv ++ sid).extractLsb' start len :=
  (BitVec.extractLsb'_append_eq_of_add_le (by omega)).trans <|
    (BitVec.extractLsb'_append_eq_of_add_le (by omega)).trans <| BitVec.extractLsb'_append_eq_of_add_le h

@[simp] theorem sidOf_mkFrame : sidOf (mkFrame sid rsv a b c) = sid.toNat :=
  congrArg BitVec.toNat <|
    (extractLsb'_mkFrame_of_le sid rsv a b c (by decide)).trans BitVec.extractLsb'_append_eq_right

@[simp] theorem rsvOf_mkFrame : rsvOf (mkFrame sid rsv a b c) = rsv :=
  (extractLsb'_mkFrame_of_le sid rsv a b c (by decide)).trans BitVec.extractLsb'_append_eq_left

@[simp] theorem wordA_mkFrame : wordA (mkFrame sid rsv a b c) = a :=
  (BitVec.extractLsb'_append_eq_of_add_le (by decide)).trans <|
    (BitVec.extractLsb'_append_eq_of_add_le (by decide)).trans BitVec.extractLsb'_append_eq_left

@[simp] theorem wordB_mkFrame : wordB (mkFrame sid rsv a b c) = b :=
  (BitVec.extractLsb'_append_eq_of_add_le (by decide)).trans BitVec.extractLsb'_append_eq_left

@[simp] theorem wordC_mkFrame : wordC (mkFrame sid rsv a b c) = c :=
  BitVec.extractLsb'_append_eq_left

end

/-- The frame of R63 from its eight bytes: each word has its low byte first. -/
theorem mkFrame_bytes (x0 x1 x2 x3 x4 x5 x6 x7 : Byte) :
    x7 ++ (x6 ++ (x5 ++ (x4 ++ (x3 ++ (x2 ++ (x1 ++ x0)))))) = mkFrame x0 x1 (x3 ++ x2) (x5 ++ x4) (x7 ++ x6) := by
  rw [mkFrame, BitVec.append_assoc, BitVec.append_assoc, BitVec.append_assoc]
  rfl

/-! ### INGESTW (R70) -/

theorem byteOperand_of_range {n : Int} (h : 0 ≤ n ∧ n ≤ 255) : byteOperand n = some (BitVec.ofInt 8 n) := if_pos h

theorem byteOperand_outside {n : Int} (h : ¬(0 ≤ n ∧ n ≤ 255)) : byteOperand n = none := if_neg h

@[simp] theorem byteOperand_lowByte (n : Int) : byteOperand (lowByte n) = some (BitVec.ofInt 8 (lowByte n)) :=
  byteOperand_of_range (by unfold lowByte; omega)

@[simp] theorem byteOperand_highByte (n : Int) : byteOperand (highByte n) = some (BitVec.ofInt 8 (highByte n)) :=
  byteOperand_of_range (by unfold highByte; omega)

theorem wordOperandOk_iff (n : Int) : wordOperandOk n = true ↔ -32768 ≤ n ∧ n ≤ 65535 := by
  simp [wordOperandOk]

/-- The two bytes of an operand of INGESTW are its word, modulo 65536 (R70). -/
theorem highByte_append_lowByte (n : Int) :
    BitVec.ofInt 8 (highByte n) ++ BitVec.ofInt 8 (lowByte n) = BitVec.ofInt 16 n := by
  apply BitVec.eq_of_toNat_eq
  simp only [toNat_append, BitVec.toNat_ofInt, highByte, lowByte]
  omega

/-- The frame of an INGESTW line (R70). -/
def ingestWFrame (s wa wb wc : Int) : Frame :=
  mkFrame (BitVec.ofInt 8 s) 0#8 (BitVec.ofInt 16 wa) (BitVec.ofInt 16 wb) (BitVec.ofInt 16 wc)

/-- The expansion of an INGESTW line is the INGEST of its frame, or an error when `s` is no byte (R69, R70). -/
theorem plain_ingestW_expansion (s wa wb wc : Int) :
    AsmLine.plain (.ingest s 0 (lowByte wa) (highByte wa) (lowByte wb) (highByte wb) (lowByte wc) (highByte wc)) =
      if 0 ≤ s ∧ s ≤ 255 then some (.ingest (ingestWFrame s wa wb wc)) else none := by
  have h0 : byteOperand 0 = some 0#8 := rfl
  by_cases hs : 0 ≤ s ∧ s ≤ 255
  · simp only [AsmLine.plain, h0, byteOperand_of_range hs, byteOperand_lowByte, byteOperand_highByte, mkFrame_bytes,
      highByte_append_lowByte, if_pos hs, ingestWFrame]
  · simp [AsmLine.plain, byteOperand_outside hs, hs]

/-- What an INGESTW line assembles to (R69, R70). -/
theorem assemble_ingestW (c : Config) (s wa wb wc : Int) :
    (AsmLine.ingestW s wa wb wc).assemble c =
      if (0 ≤ s ∧ s ≤ 255) ∧ (-32768 ≤ wa ∧ wa ≤ 65535) ∧ (-32768 ≤ wb ∧ wb ≤ 65535) ∧ (-32768 ≤ wc ∧ wc ≤ 65535)
      then some (0x01#8 ++ ingestWFrame s wa wb wc) else none := by
  have hok : (wordOperandOk wa && wordOperandOk wb && wordOperandOk wc) = true ↔
      (-32768 ≤ wa ∧ wa ≤ 65535) ∧ (-32768 ≤ wb ∧ wb ≤ 65535) ∧ (-32768 ≤ wc ∧ wc ≤ 65535) := by
    rw [Bool.and_eq_true, Bool.and_eq_true, wordOperandOk_iff, wordOperandOk_iff, wordOperandOk_iff, and_assoc]
  rw [AsmLine.assemble, AsmLine.instr?, AsmLine.expand]
  by_cases hwords : (wordOperandOk wa && wordOperandOk wb && wordOperandOk wc) = true
  · rw [if_pos hwords, Option.bind_some, plain_ingestW_expansion]
    simp only [and_iff_left (hok.mp hwords)]
    split <;> rfl
  · rw [if_neg hwords, if_neg fun h => hwords (hok.mpr h.2)]
    rfl

/-- The value of an integer as an unsigned vector, modulo the range of the vector (R11). -/
theorem cast_toNat_ofInt (n : Nat) (k : Int) : ((BitVec.ofInt n k).toNat : Int) = k % 2 ^ n := by
  rw [BitVec.toNat_ofInt, Int.toNat_of_nonneg (Int.emod_nonneg k (by positivity))]
  norm_cast

/-- Settles O8: the words of the frame are the operands modulo 65536, and the ranges are those the assembler tests. -/
theorem ingestWBuildsTheFrameOfItsWords : Obligations.IngestWBuildsTheFrameOfItsWords := by
  intro c s wa wb wc
  rw [assemble_ingestW]
  refine ⟨fun h => ⟨ingestWFrame s wa wb wc, if_pos h, ?_⟩, fun h => if_neg h⟩
  show (sidOf _ : Int) = s ∧ rsvOf _ = 0#8 ∧ ((wordA _).toNat : Int) = wa % 65536 ∧
    ((wordB _).toNat : Int) = wb % 65536 ∧ ((wordC _).toNat : Int) = wc % 65536
  obtain ⟨⟨hs0, hs255⟩, -⟩ := h
  simp only [ingestWFrame, sidOf_mkFrame, rsvOf_mkFrame, wordA_mkFrame, wordB_mkFrame, wordC_mkFrame, cast_toNat_ofInt]
  exact ⟨Int.emod_eq_of_lt hs0 (by omega), trivial, rfl, rfl, rfl⟩

end Sys2Proof.Machine

/-! The statements of 40_ingest.md: the two arms of INGEST (R80, R81), the test it makes and no other (R82), and the
frame that replaces a whole slot (R83). -/

namespace Sys2Proof.Machine

/-- Settles O17, by the test of R81 on the two bytes `sidOf` and `rsvOf` read. -/
theorem ingestWritesTheSlotOrRejects : Obligations.IngestWritesTheSlotOrRejects := by
  intro f s hw
  refine ⟨decodeOfEncodeIsTheCommand (.ingest f) rfl, fun hbad => ?_, fun hsid hrsv => ?_⟩
  · exact exec_ingest_malformed hw ((malformed_iff f).mpr hbad)
  · have hm : malformed f = false := (malformed_eq_false_iff f).mpr ⟨hsid, hrsv⟩
    have hset : writeSlot s.fs (sidOf f) f = s.fs.set (sidOf f) f hsid := writeSlot_eq_set s.fs f hsid
    rw [exec_ingest_accepted hw hm, hset]
    rfl

/-- Settles O19: the second write is the last one to the slot, and the parameters of the slot read from it. -/
theorem laterFrameReplacesTheWholeSlot : Obligations.LaterFrameReplacesTheWholeSlot := by
  intro f g s hw hmf hmg hsame
  obtain ⟨hsid, -⟩ := (malformed_eq_false_iff g).mp hmg
  have hslot (fs : FrameFile) : (writeSlot fs (sidOf g) g)[sidOf g]? = some g := writeSlot_same fs g hsid
  refine ⟨_, _, exec_ingest_accepted hw hmf, exec_ingest_accepted hw hmg, hslot _, fun slot hne => ?_,
    fun p d hd hdslot => ?_⟩
  · calc (writeSlot (writeSlot s.fs (sidOf f) f) (sidOf g) g)[slot]?
        = (writeSlot s.fs (sidOf f) f)[slot]? := writeSlot_other _ g hne
      _ = s.fs[slot]? := writeSlot_other s.fs f (hsame ▸ hne)
  · obtain ⟨-, hoff, -⟩ := (DescEntry.wellFormed_iff d).mp (Config.wellFormed_entry hw hd)
    exact memRead2_slot (hdslot ▸ hslot _) (by omega)

/-- Bytes 0 and 1 are slices of the low 16 bits (R21). -/
theorem byteOf_eq_of_low16_eq {f g : Frame} (h : f.extractLsb' 0 16 = g.extractLsb' 0 16) {b : Nat} (hb : b < 2) :
    byteOf f b = byteOf g b := by
  have hslice (v : Frame) : (v.extractLsb' 0 16).extractLsb' (8 * b) 8 = byteOf v b := by
    rw [BitVec.extractLsb'_extractLsb'_of_le (by omega), byteOf]
  rw [← hslice f, h, hslice g]

/-- The test of R81 reads bytes 0 and 1 alone (R82). -/
theorem malformed_eq_of_low16_eq {f g : Frame} (h : f.extractLsb' 0 16 = g.extractLsb' 0 16) :
    malformed f = malformed g := by
  rw [malformed, malformed, sidOf, sidOf, rsvOf, rsvOf, byteOf_eq_of_low16_eq h (by decide : 0 < 2),
    byteOf_eq_of_low16_eq h (by decide : 1 < 2)]

/-- The response of INGEST is a function of the test of R81. -/
theorem answered_ingest (f : Frame) {s : State} (hw : s.cfg.wellFormed = true) :
    answered (exec (.ingest f) s) = some (if malformed f then failureResponse .reject else okData 0#64) := by
  cases hm : malformed f with
  | true => exact congrArg answered (exec_ingest_malformed hw hm)
  | false => exact congrArg answered (exec_ingest_accepted hw hm)

/-- Writing what the slot holds changes no slot. -/
theorem writeSlot_present {fs : FrameFile} {slot : Nat} {v : Frame} (h : fs[slot]? = some v) :
    writeSlot fs slot v = fs := by
  obtain ⟨hslot, rfl⟩ := Vector.getElem?_eq_some_iff.mp h
  rw [writeSlot_eq_set fs _ hslot, Vector.set_getElem_self]

/-- Settles O20: equal bytes 0 and 1 pass the same test, and writing a slot's own content changes nothing. -/
theorem acceptanceDependsOnTwoBytesAlone : Obligations.AcceptanceDependsOnTwoBytesAlone := by
  refine ⟨fun f g s s' hlow hw hw' => ?_, fun f s hw hm hpresent => ?_⟩
  · rw [answered_ingest f hw, answered_ingest g hw', malformed_eq_of_low16_eq hlow]
  · rw [exec_ingest_accepted hw hm, writeSlot_present hpresent]
    rfl

end Sys2Proof.Machine

/-! The statements of 41_decode.md: the arithmetic of the scaler (R95 to R98, R101), and DECODE: its two bytes, its
range and its response (R90 to R93, R99, R100). -/

/-! ### Exact configurations (R97) -/

namespace Sys2Proof

theorem DescEntry.exact_iff (d : DescEntry) : d.exact = true ↔ d.div ∣ 1000 * d.mul := by
  rw [DescEntry.exact, beq_iff_eq, Int.dvd_iff_emod_eq_zero]

/-- The scale of every entry of an exact configuration is exact (R97). -/
theorem Config.exact_entry {c : Config} {p : Nat} {d : DescEntry} (h : c.exact = true) (hd : c.desc[p]? = some d) :
    d.div ∣ 1000 * d.mul :=
  (DescEntry.exact_iff d).mp (List.all_eq_true.mp h d (Vector.mem_toList_iff.mpr (Vector.mem_of_getElem? hd)))

end Sys2Proof

namespace Sys2Proof.Machine

/-! ### The scaler (R95, R98, R101) -/

/-- The five lines of R95 with the library's truncating division. -/
theorem scale_eq_tdiv {d : DescEntry} (hdiv : 0 < d.div) (raw : Int) :
    scale d raw = Int.tdiv ((raw + d.pre) * d.mul * 1000) d.div + 1000 * d.post := by
  simp only [scale, tdiv_eq _ hdiv, QSCALE]

/-- Where the scale is a whole number `k` of thousandths, the scaler multiplies by it and truncates nothing (R97). -/
theorem scale_of_exact {d : DescEntry} {k : Int} (hdiv : 0 < d.div) (hk : 1000 * d.mul = d.div * k) (raw : Int) :
    scale d raw = (raw + d.pre) * k + 1000 * d.post := by
  have ht3 : (raw + d.pre) * d.mul * 1000 = (raw + d.pre) * k * d.div := by linear_combination (raw + d.pre) * hk
  rw [scale_eq_tdiv hdiv, ht3, Int.mul_tdiv_cancel _ hdiv.ne']

/-- At an exact scale a bias before the scale is as good as the scaled bias after it (R101). -/
theorem scale_pre_eq_scale_post {d : DescEntry} {k pre post : Int} (hdiv : 0 < d.div)
    (hk : 1000 * d.mul = d.div * k) (hbias : pre * k = 1000 * post) (raw : Int) :
    scale { d with pre := pre, post := 0 } raw = scale { d with pre := 0, post := post } raw := by
  calc scale { d with pre := pre, post := 0 } raw
      = (raw + pre) * k + 1000 * 0 := scale_of_exact (d := { d with pre := pre, post := 0 }) hdiv hk raw
    _ = (raw + 0) * k + 1000 * post := by linear_combination hbias
    _ = scale { d with pre := 0, post := post } raw :=
      (scale_of_exact (d := { d with pre := 0, post := post }) hdiv hk raw).symm

/-- The remainder of a truncating division is smaller than the divisor (R98). -/
theorem abs_tmod_lt (n : Int) {d : Int} (hd : 0 < d) : |Int.tmod n d| < d :=
  abs_lt.mpr ⟨Int.lt_tmod_of_pos n hd, Int.tmod_lt_of_pos n hd⟩

/-- The remainder of a truncating division is zero or has the sign of the dividend (R98). -/
theorem tmod_eq_zero_or_sign_eq (n d : Int) : Int.tmod n d = 0 ∨ (Int.tmod n d).sign = n.sign := by
  by_cases hdvd : d ∣ n
  · exact .inl (Int.dvd_iff_tmod_eq_zero.mp hdvd)
  · exact .inr (by rw [Int.sign_tmod, if_neg hdvd])

/-- Settles O27: what the division leaves is the remainder of the library's truncating division. -/
theorem divisionTruncatesTowardZero : Obligations.DivisionTruncatesTowardZero := by
  refine ⟨fun n d hd => ?_, by decide, by decide, fun d => wellFormed_div_pos⟩
  have hrem : n - d * tdiv n d = Int.tmod n d := by rw [tdiv_eq n hd, ← Int.tmod_def]
  rw [hrem]
  refine ⟨abs_tmod_lt n hd, tmod_eq_zero_or_sign_eq n d, ?_, ?_⟩
  · rw [tdiv_eq 0 hd, Int.zero_tdiv]
  · rw [tdiv_eq n Int.one_pos, Int.tdiv_one]

/-- Settles O30; the two statements about every word have exact scales, of 0 and of 100 thousandths. -/
theorem scalerCornerCases : Obligations.ScalerCornerCases := by
  refine ⟨by decide, by decide, by decide, fun post w => ?_, by decide, by decide, fun w => ?_, by decide, by decide⟩
  · show scale _ (rawOf _ w) = _
    rw [scale_of_exact (k := 0) Int.one_pos rfl, Int.mul_zero, Int.zero_add]
  · exact scale_pre_eq_scale_post (d := ⟨0, 2, true, 0, 1, 10, 0⟩) (k := 100) (pre := -1000) (post := -100)
      (by decide) rfl rfl w.toInt

/-! ### The bounds of the five lines (R96) -/

section
variable {d : DescEntry}

theorem abs_rawOf_add_pre_le (hwf : d.wellFormed = true) (w : Halfword) : |rawOf d w + d.pre| ≤ 98302 := by
  obtain ⟨-, -, -, hpre, -⟩ := (DescEntry.wellFormed_iff d).mp hwf
  have hraw := rawOf_bounds d w
  exact abs_le.mpr (by omega)

theorem abs_product_le (hwf : d.wellFormed = true) (w : Halfword) : |(rawOf d w + d.pre) * d.mul| ≤ 3221159936 := by
  obtain ⟨-, -, -, -, hmul, -⟩ := (DescEntry.wellFormed_iff d).mp hwf
  calc |(rawOf d w + d.pre) * d.mul| = |rawOf d w + d.pre| * |d.mul| := abs_mul _ _
    _ ≤ 98302 * 32768 := by
      have hmulAbs : |d.mul| ≤ 32768 := abs_le.mpr (by omega)
      gcongr
      exact abs_rawOf_add_pre_le hwf w
    _ = 3221159936 := rfl

theorem abs_dividend_le (hwf : d.wellFormed = true) (w : Halfword) :
    |(rawOf d w + d.pre) * d.mul * 1000| ≤ 3221159936000 := by
  have hproduct := abs_le.mp (abs_product_le hwf w)
  exact abs_le.mpr (by omega)

theorem abs_postBias_le (hwf : d.wellFormed = true) : |1000 * d.post| ≤ 32768000 := by
  obtain ⟨-, -, -, -, -, hpost⟩ := (DescEntry.wellFormed_iff d).mp hwf
  exact abs_le.mpr (by omega)

theorem abs_scale_le (hwf : d.wellFormed = true) (w : Halfword) : |scale d (rawOf d w)| ≤ 3221192704000 :=
  have hquotient := (abs_tdiv_le _ (wellFormed_div_pos hwf)).trans (abs_dividend_le hwf w)
  (abs_add_le _ _).trans (add_le_add hquotient (abs_postBias_le hwf))

/-- DATA reads back as the scaled integer. -/
theorem toInt_ofInt_scale (hwf : d.wellFormed = true) (w : Halfword) :
    (BitVec.ofInt 64 (scale d (rawOf d w))).toInt = scale d (rawOf d w) := by
  have hq := abs_le.mp (abs_scale_le hwf w)
  exact BitVec.toInt_ofInt_eq_self (by decide) (by omega) (by omega)

end

/-- Settles O24, line by line; the bound of each line comes from the one before. -/
theorem scalerStaysInsideItsBounds : Obligations.ScalerStaysInsideItsBounds := by
  intro d w hwf
  exact ⟨abs_rawOf_add_pre_le hwf w, abs_product_le hwf w, abs_dividend_le hwf w,
    abs_tdiv_le _ (wellFormed_div_pos hwf), abs_postBias_le hwf, rfl, abs_scale_le hwf w,
    (abs_scale_le hwf w).trans_lt (by norm_num), toInt_ofInt_scale hwf w⟩

/-! ### Exactness (R97) -/

section
variable {d : DescEntry}

/-- The scaled integer is the value in thousandths exactly when the division leaves no remainder (R97). -/
theorem scale_eq_value_iff (hdiv : 0 < d.div) (raw : Int) :
    ((scale d raw : Int) : Rat) = 1000 * value d raw ↔ d.div ∣ (raw + d.pre) * d.mul * 1000 := by
  have hd : (d.div : Rat) ≠ 0 := by exact_mod_cast hdiv.ne'
  rw [← sub_eq_zero, scale_sub_value d raw hdiv, div_eq_zero_iff, or_iff_left hd, neg_eq_zero, Int.cast_eq_zero,
    Int.dvd_iff_tmod_eq_zero]

/-- An entry whose scale is exact decodes every raw integer exactly (R97). -/
theorem scale_eq_value_of_dvd (hdiv : 0 < d.div) (hexact : d.div ∣ 1000 * d.mul) (raw : Int) :
    ((scale d raw : Int) : Rat) = 1000 * value d raw := by
  rw [scale_eq_value_iff hdiv, mul_assoc, mul_comm d.mul]
  exact hexact.mul_left _

theorem abs_scale_sub_value_lt_one (hdiv : 0 < d.div) (raw : Int) :
    |((scale d raw : Int) : Rat) - 1000 * value d raw| < 1 := by
  have hd : (0 : Rat) < d.div := by exact_mod_cast hdiv
  rw [scale_sub_value d raw hdiv, abs_div, abs_neg, abs_of_pos hd, div_lt_one hd]
  exact_mod_cast abs_tmod_lt _ hdiv

end

/-- Settles O25, from the distance between the scaled integer and the value, which is the remainder over the divisor. -/
theorem scalerIsExactIffTheDivisionIs : Obligations.ScalerIsExactIffTheDivisionIs := by
  refine ⟨fun d raw hwf => ?_, by decide, by decide⟩
  have hdiv := wellFormed_div_pos hwf
  exact ⟨scale_eq_value_iff hdiv raw, fun hexact => scale_eq_value_of_dvd hdiv hexact raw,
    abs_scale_sub_value_lt_one hdiv raw, scale_eq_tdiv hdiv raw⟩

/-! ### DECODE (R90 to R93, R99) -/

section
variable {s : State} {id : Nat} {d : DescEntry}

/-- With a well-formed configuration an entry has its word, and DECODE answers the scaled word (R90, R92). -/
theorem exec_decode_entry (hw : s.cfg.wellFormed = true) (hd : s.cfg.desc[id]? = some d) :
    ∃ w, memRead2 s.fs (8 * d.slot + d.off) = some w ∧
      exec (.decode id) s = .next (respond (okInt (scale d (rawOf d w))) s) := by
  obtain ⟨v, -, hr⟩ := memRead2_wellFormed s.fs (Config.wellFormed_entry hw hd)
  exact ⟨_, hr, exec_decode_word hw hd hr⟩

/-- A word of zeros is the raw integer 0, signed or not (R93). -/
theorem rawOf_zero (d : DescEntry) : rawOf d 0#16 = 0 := by
  unfold rawOf
  split <;> rfl

end

/-- Settles O22: below 41 the word is the two bytes of the entry, and the scaler is the five lines of R95. -/
theorem decodeAnswersTheScaledWord : Obligations.DecodeAnswersTheScaledWord := by
  intro s id hw
  refine ⟨fun hid => decodeOfEncodeIsTheCommand (.decode id) (decide_eq_true hid), exec_decode_outside hw,
    fun hid => ?_⟩
  have hd : s.cfg.desc[id]? = some s.cfg.desc[id] := Vector.getElem?_eq_getElem hid
  have hwf := Config.wellFormed_entry hw hd
  obtain ⟨lo, hi, hlo, hhi, hr⟩ := bytes_wellFormed s.fs hwf
  refine ⟨lo, hi, hlo, hhi, ?_⟩
  rw [exec_decode_word hw hd hr, scale_eq_tdiv (wellFormed_div_pos hwf)]
  rfl

/-- Settles O23: the range test is made before any register is read. -/
theorem decodeOutsideTheTableIsNoResult : Obligations.DecodeOutsideTheTableIsNoResult := by
  intro s id hw
  refine ⟨fun hout fs => exec_decode_outside (s := setFs fs s) hw hout, fun hin => ?_⟩
  obtain ⟨w, -, h⟩ := exec_decode_entry hw (Vector.getElem?_eq_getElem (Nat.lt_succ_of_le hin))
  exact ⟨_, h⟩

/-- Settles O26: the entry is exact, and DATA reads back as the scaled integer. -/
theorem exactConfigurationDecodesExactly : Obligations.ExactConfigurationDecodesExactly := by
  intro s id d hw hexact hd
  have hwf := Config.wellFormed_entry hw hd
  have hdvd := Config.exact_entry hexact hd
  obtain ⟨w, hr, h⟩ := exec_decode_entry hw hd
  exact ⟨w, _, hr, scale_eq_value_of_dvd (wellFormed_div_pos hwf) hdvd _, toInt_ofInt_scale hwf w, h⟩

/-- Settles O28: the word of a zero slot is zero, so the raw integer is zero. -/
theorem zeroSlotDecodesWithStatusOk : Obligations.ZeroSlotDecodesWithStatusOk := by
  intro s id d hw hd hzero
  have hwf := Config.wellFormed_entry hw hd
  obtain ⟨-, hoff, -⟩ := (DescEntry.wellFormed_iff d).mp hwf
  have hr : memRead2 s.fs (8 * d.slot + d.off) = some 0#16 := by
    rw [memRead2_slot hzero (by omega), BitVec.extractLsb'_zero]
  rw [exec_decode_word hw hd hr, rawOf_zero, scale_eq_tdiv (wellFormed_div_pos hwf), Int.zero_add]
  rfl

/-! ### What the response depends on (R100) -/

section
variable {s s' : State} {id : Nat}

/-- The two states hold the same two bytes for the entry of the identifier, if it has one (R92). -/
def SameDecodeBytes (id : Nat) (s s' : State) : Prop :=
  ∀ d, s.cfg.desc[id]? = some d →
    memByte s'.fs (8 * d.slot + d.off) = memByte s.fs (8 * d.slot + d.off) ∧
      memByte s'.fs (8 * d.slot + d.off + 1) = memByte s.fs (8 * d.slot + d.off + 1)

theorem sameDecodeBytes_of_fs_eq (hfs : s'.fs = s.fs) : SameDecodeBytes id s s' :=
  fun _ _ => by rw [hfs]; exact ⟨rfl, rfl⟩

/-- The response of DECODE is a function of the configuration and of its two bytes (R100). -/
theorem answered_decode_congr (hw : s.cfg.wellFormed = true) (hcfg : s'.cfg = s.cfg)
    (hbytes : SameDecodeBytes id s s') : answered (exec (.decode id) s') = answered (exec (.decode id) s) := by
  have hw' : s'.cfg.wellFormed = true := hcfg ▸ hw
  cases hd : s.cfg.desc[id]? with
  | none =>
    have hout : NPARAM ≤ id := Vector.getElem?_eq_none_iff.mp hd
    rw [exec_decode_outside hw hout, exec_decode_outside hw' hout]
    rfl
  | some d =>
    obtain ⟨w, hr, h⟩ := exec_decode_entry hw hd
    obtain ⟨hlo, hhi⟩ := hbytes d hd
    have hr' : memRead2 s'.fs (8 * d.slot + d.off) = some w := by rw [← hr, memRead2, memRead2, hlo, hhi]
    rw [h, exec_decode_word hw' (hcfg ▸ hd) hr']
    rfl

/-- A write to another slot than the entry's keeps the two bytes of the entry (R44). -/
theorem sameDecodeBytes_writeSlot {slot : Nat} {v : Frame} (hw : s.cfg.wellFormed = true)
    (hother : ∀ d, s.cfg.desc[id]? = some d → d.slot ≠ slot) (hfs : s'.fs = writeSlot s.fs slot v) :
    SameDecodeBytes id s s' := by
  intro d hd
  have hne := hother d hd
  obtain ⟨-, hoff, -⟩ := (DescEntry.wellFormed_iff d).mp (Config.wellFormed_entry hw hd)
  rw [hfs]
  exact ⟨memByte_writeSlot_other _ v (by omega), memByte_writeSlot_other _ v (by omega)⟩

/-- An INGEST that is rejected, or goes to another slot than the entry's, keeps the two bytes of the entry (R100). -/
theorem sameDecodeBytes_ingest {f : Frame} (h : exec (.ingest f) s = .next s')
    (hno : malformed f = true ∨ ∀ d, s.cfg.desc[id]? = some d → d.slot ≠ sidOf f) : SameDecodeBytes id s s' := by
  have hw := exec_next_wellFormed h
  by_cases hm : malformed f = true
  · obtain rfl := Host.Outcome.next.inj ((exec_ingest_malformed hw hm).symm.trans h)
    exact sameDecodeBytes_of_fs_eq rfl
  · obtain rfl := Host.Outcome.next.inj ((exec_ingest_accepted hw (Bool.not_eq_true _ ▸ hm)).symm.trans h)
    exact sameDecodeBytes_writeSlot hw (hno.resolve_left hm) rfl

end

/-- Settles O29: DECODE itself, and an INGEST as described, keep the configuration and the two bytes. -/
theorem decodeDependsOnItsTwoBytesOnly : Obligations.DecodeDependsOnItsTwoBytesOnly := by
  intro s id hw
  refine ⟨?_, fun s' hcfg hbytes => answered_decode_congr hw hcfg hbytes, fun f t h hno => ?_⟩
  · obtain ⟨t, -, h, -⟩ := exec_total (.decode id) hw
    obtain ⟨hcfg, -⟩ := exec_next_frame h
    have hfs := exec_next_fs (by simp) h
    exact ⟨t, h, hfs, answered_decode_congr hw hcfg (sameDecodeBytes_of_fs_eq hfs)⟩
  · obtain ⟨hcfg, -⟩ := exec_next_frame h
    exact answered_decode_congr hw hcfg (sameDecodeBytes_ingest h hno)

end Sys2Proof.Machine

/-! The statements of 42_bitfield.md: the word of the bit-field commands (R111), LIMITFLAG (R110, R112) and FEATSTAT
(R113, R116), which bits show in which responses (R115), and what the responses depend on (R117). -/

namespace Sys2Proof.Machine

/-! ### The bit-field word (R111) -/

section
variable {d : DescEntry} {w w' : Halfword}

/-- An identity-scaled entry leaves the raw integer as it is (R27, R94). -/
theorem value_identity (h : d.identityScaled = true) (raw : Int) : value d raw = raw := by
  obtain ⟨hpre, hmul, hdiv, hpost⟩ := (DescEntry.identityScaled_iff d).mp h
  simp [value, hpre, hmul, hdiv, hpost]

/-- For either setting of SIGNED the word is the raw integer modulo 65536 (R93, R111). -/
theorem toNat_eq_rawOf_emod (d : DescEntry) (w : Halfword) : (w.toNat : Int) = rawOf d w % 65536 := by
  have hlt := w.isLt
  unfold rawOf
  split
  · rw [BitVec.toInt_eq_toNat_cond]
    split <;> omega
  · omega

/-- An entry reads different words as different raw integers (R93). -/
theorem eq_of_rawOf_eq (h : rawOf d w = rawOf d w') : w = w' := by
  apply BitVec.eq_of_toNat_eq
  exact_mod_cast (toNat_eq_rawOf_emod d w).trans (h ▸ (toNat_eq_rawOf_emod d w').symm)

/-- The bit-field word is the word the entry reads (R111). -/
theorem bitFieldWord_word {p : Nat} {s : State} (hd : s.cfg.desc[p]? = some d)
    (hr : memRead2 s.fs (8 * d.slot + d.off) = some w) (found : Halfword → Result) :
    bitFieldWord p s found = found w := by
  rw [bitFieldWord_found hd, extract, hr]

end

/-- W5 of R24, for either of the two parameters. -/
theorem entry_of_bitField {c : Config} {p : Nat} (hw : c.wellFormed = true) (hp : p = c.pLimits ∨ p = c.pStatus) :
    ∃ d, c.desc[p]? = some d ∧ d.identityScaled = true := by
  obtain ⟨-, hlimits, hstatus⟩ := Config.wellFormed_bitFields hw
  obtain rfl | rfl := hp
  · exact hlimits
  · exact hstatus

/-- Settles O34: the entry is identity-scaled, so its value is the raw integer. -/
theorem bitFieldWordIsTheValueModulo65536 : Obligations.BitFieldWordIsTheValueModulo65536 := by
  intro s p hw hp
  obtain ⟨d, hd, hid⟩ := entry_of_bitField hw hp
  obtain ⟨v, -, hr⟩ := memRead2_wellFormed s.fs (Config.wellFormed_entry hw hd)
  exact ⟨d, _, _, hd, hr, bitFieldWord_word hd hr, value_identity hid _, toNat_eq_rawOf_emod d _⟩

/-! ### The two commands (R110, R112, R113, R116) -/

/-- Settles O32: the limit bit of the two-byte word is its bit `id`. -/
theorem limitFlagAnswersItsBit : Obligations.LimitFlagAnswersItsBit := by
  intro s id hw
  refine ⟨fun hid => decodeOfEncodeIsTheCommand (.limitFlag id) (decide_eq_true hid), exec_limitFlag_outside hw,
    fun hid => ?_⟩
  obtain ⟨d, hd, -⟩ := entry_of_bitField hw (.inl rfl)
  obtain ⟨lo, hi, hlo, hhi, hr⟩ := bytes_wellFormed s.fs (Config.wellFormed_entry hw hd)
  refine ⟨d, lo, hi, hd, hlo, hhi, ?_⟩
  rw [← limitBit_eq]
  exact exec_limitFlag_word hw hid hd hr

/-- FEATSTAT answers the slice of the status word that `FS_LUT` names (R113). -/
theorem exec_featStat_slice {s : State} {id off wid : Nat} {d : DescEntry} {w : Halfword}
    (hw : s.cfg.wellFormed = true) (hd : s.cfg.desc[s.cfg.pStatus]? = some d)
    (hr : memRead2 s.fs (8 * d.slot + d.off) = some w) (hlut : fsLut[id]? = some (off, wid)) (hwid : wid ≤ 16) :
    exec (.featStat id) s = .next (respond (okData ((w.extractLsb' off wid).setWidth 64)) s) := by
  rw [exec_featStat_word hw hlut hd hr, featureField_eq w off wid hwid]

/-- Settles O33, by the four rows of `FS_LUT`. -/
theorem featStatAnswersItsField : Obligations.FeatStatAnswersItsField := by
  intro s id hw
  refine ⟨fun hid => decodeOfEncodeIsTheCommand (.featStat id) (decide_eq_true hid), exec_featStat_outside hw, ?_⟩
  obtain ⟨d, hd, -⟩ := entry_of_bitField hw (.inr rfl)
  obtain ⟨lo, hi, hlo, hhi, hr⟩ := bytes_wellFormed s.fs (Config.wellFormed_entry hw hd)
  refine ⟨d, lo, hi, hd, hlo, hhi, ?_⟩
  have antiLag := exec_featStat_slice hw hd hr (id := 0) rfl (by decide)
  have launch := exec_featStat_slice hw hd hr (id := 1) rfl (by decide)
  have traction := exec_featStat_slice hw hd hr (id := 2) rfl (by decide)
  have cruise := exec_featStat_slice hw hd hr (id := 3) rfl (by decide)
  simp only [List.forall_mem_cons, List.not_mem_nil, false_implies, implies_true, and_true]
  exact ⟨antiLag, launch, traction, cruise⟩

/-- Settles O37, by evaluating the bit functions and the scaler on the words of R118. -/
theorem bitFieldCornerCases : Obligations.BitFieldCornerCases :=
  ⟨by decide, by decide, scale_identity rfl _, by decide, by decide, by decide⟩

/-! ### The response as a function of the word (R115, R117) -/

section
variable {s : State} {id : Nat} {d : DescEntry} {w : Halfword}

/-- The response of LIMITFLAG is a function of the limit-flags word (R117). -/
theorem answered_limitFlag (id : Nat) (hw : s.cfg.wellFormed = true) (hd : s.cfg.desc[s.cfg.pLimits]? = some d)
    (hr : memRead2 s.fs (8 * d.slot + d.off) = some w) :
    answered (exec (.limitFlag id) s) =
      some (if id < NFLAG then okData (limitBit w id) else failureResponse .noResult) := by
  split
  next hid => exact congrArg answered (exec_limitFlag_word hw hid hd hr)
  next hout => exact congrArg answered (exec_limitFlag_outside hw (Nat.not_lt.mp hout))

/-- The response of FEATSTAT is a function of the status word (R117). -/
theorem answered_featStat (id : Nat) (hw : s.cfg.wellFormed = true) (hd : s.cfg.desc[s.cfg.pStatus]? = some d)
    (hr : memRead2 s.fs (8 * d.slot + d.off) = some w) :
    answered (exec (.featStat id) s) =
      some ((fsLut[id]?).elim (failureResponse .noResult) fun field => okData (featureField w field.1 field.2)) := by
  cases hlut : fsLut[id]? with
  | some field => exact congrArg answered (exec_featStat_word hw hlut hd hr)
  | none => exact congrArg answered (exec_featStat_outside hw (Vector.getElem?_eq_none_iff.mp hlut))

/-- The response of DECODE is a function of the word its entry reads (R100). -/
theorem answered_decode (hw : s.cfg.wellFormed = true) (hd : s.cfg.desc[id]? = some d)
    (hr : memRead2 s.fs (8 * d.slot + d.off) = some w) :
    answered (exec (.decode id) s) = some (okInt (scale d (rawOf d w))) :=
  congrArg answered (exec_decode_word hw hd hr)

end

/-- Settles O36: both states read the same word, of which the response is a function. -/
theorem bitFieldCommandsDependOnTheirWordOnly : Obligations.BitFieldCommandsDependOnTheirWordOnly := by
  intro s s' id hw hcfg
  have hw' : s'.cfg.wellFormed = true := hcfg ▸ hw
  refine ⟨fun t h => h.elim (exec_next_fs nofun) (exec_next_fs nofun), fun hsame => ?_, fun hsame => ?_⟩
  · obtain ⟨d, hd, -⟩ := entry_of_bitField hw (.inl rfl)
    obtain ⟨v, -, hr⟩ := memRead2_wellFormed s.fs (Config.wellFormed_entry hw hd)
    rw [answered_limitFlag id hw hd hr, answered_limitFlag id hw' (hcfg ▸ hd) ((hsame d hd).trans hr)]
  · obtain ⟨d, hd, -⟩ := entry_of_bitField hw (.inr rfl)
    obtain ⟨v, -, hr⟩ := memRead2_wellFormed s.fs (Config.wellFormed_entry hw hd)
    rw [answered_featStat id hw hd hr, answered_featStat id hw' (hcfg ▸ hd) ((hsame d hd).trans hr)]

/-! ### Which bits show (R115) -/

section
variable {w w' : Halfword}

/-- The four fields lie inside the bits 0 to 7 and 12 to 14, the mask 0x70FF (R28, R115). -/
theorem fsLut_fields_in_mask : ∀ field ∈ fsLut,
    (0x70FF#16 >>> field.1) &&& BitVec.ofNat 16 (2 ^ field.2 - 1) = BitVec.ofNat 16 (2 ^ field.2 - 1) := by
  decide

/-- The bits outside the fields of `FS_LUT` show in no field (R115). -/
theorem featureField_and_mask {field : Nat × Nat} (h : field ∈ fsLut) (w : Halfword) :
    featureField (w &&& 0x70FF#16) field.1 field.2 = featureField w field.1 field.2 := by
  rw [featureField, BitVec.ushiftRight_and_distrib, BitVec.and_assoc, fsLut_fields_in_mask field h, featureField]

/-- Bit 0 of the response is the bit of the word (R110). -/
theorem getLsbD_limitBit (w : Halfword) (id : Nat) : (limitBit w id).getLsbD 0 = w.getLsbD id := by
  rw [limitBit_eq]
  cases w.getLsbD id <;> rfl

/-- The word can be read whole through DECODE of an identity-scaled entry (R115). -/
theorem eq_of_okInt_scale_eq {d : DescEntry} (hwf : d.wellFormed = true) (hid : d.identityScaled = true)
    (h : okInt (scale d (rawOf d w)) = okInt (scale d (rawOf d w'))) : w = w' := by
  have hscale : scale d (rawOf d w) = scale d (rawOf d w') := by
    rw [← toInt_ofInt_scale hwf w, ← toInt_ofInt_scale hwf w']
    exact congrArg (fun r => r.data.toInt) h
  rw [scale_identity hid, scale_identity hid] at hscale
  exact eq_of_rawOf_eq (d := d) (by omega)

end

section
variable {s s' : State} {d : DescEntry} {w w' : Halfword}

/-- Status words that agree in the fields give the same FEATSTAT responses (R115). -/
theorem answered_featStat_eq_of_mask_eq (hw : s.cfg.wellFormed = true) (hcfg : s'.cfg = s.cfg)
    (hd : s.cfg.desc[s.cfg.pStatus]? = some d) (hr : memRead2 s.fs (8 * d.slot + d.off) = some w)
    (hr' : memRead2 s'.fs (8 * d.slot + d.off) = some w') (hmask : w &&& 0x70FF#16 = w' &&& 0x70FF#16) (id : Nat) :
    answered (exec (.featStat id) s') = answered (exec (.featStat id) s) := by
  rw [answered_featStat id hw hd hr, answered_featStat id (hcfg ▸ hw) (hcfg ▸ hd) hr']
  cases hlut : fsLut[id]? with
  | none => rfl
  | some field =>
    have hmem := Vector.mem_of_getElem? hlut
    have hfield : featureField w' field.1 field.2 = featureField w field.1 field.2 := by
      rw [← featureField_and_mask hmem w, hmask, featureField_and_mask hmem w']
    exact congrArg (some ∘ okData) hfield

/-- The sixteen LIMITFLAG responses determine the limit-flags word (R115). -/
theorem eq_of_answered_limitFlag_eq (hw : s.cfg.wellFormed = true) (hcfg : s'.cfg = s.cfg)
    (hd : s.cfg.desc[s.cfg.pLimits]? = some d) (hr : memRead2 s.fs (8 * d.slot + d.off) = some w)
    (hr' : memRead2 s'.fs (8 * d.slot + d.off) = some w')
    (h : ∀ id < 16, answered (exec (.limitFlag id) s') = answered (exec (.limitFlag id) s)) : w = w' := by
  apply BitVec.eq_of_getLsbD_eq
  intro id hid
  have hresponse := h id hid
  rw [answered_limitFlag id hw hd hr, answered_limitFlag id (hcfg ▸ hw) (hcfg ▸ hd) hr', if_pos hid, if_pos hid]
    at hresponse
  have hbit : limitBit w' id = limitBit w id := congrArg Response.data (Option.some.inj hresponse)
  rw [← getLsbD_limitBit w, ← hbit, getLsbD_limitBit]

/-- The DECODE response of a bit-field parameter determines its word (R115). -/
theorem eq_of_answered_decode_eq {p : Nat} (hw : s.cfg.wellFormed = true) (hcfg : s'.cfg = s.cfg)
    (hp : p = s.cfg.pLimits ∨ p = s.cfg.pStatus) (hd : s.cfg.desc[p]? = some d)
    (hr : memRead2 s.fs (8 * d.slot + d.off) = some w) (hr' : memRead2 s'.fs (8 * d.slot + d.off) = some w')
    (h : answered (exec (.decode p) s') = answered (exec (.decode p) s)) : w = w' := by
  obtain ⟨e, he, hid⟩ := entry_of_bitField hw hp
  obtain rfl := Option.some.inj (hd.symm.trans he)
  rw [answered_decode hw hd hr, answered_decode (hcfg ▸ hw) (hcfg ▸ hd) hr'] at h
  exact eq_of_okInt_scale_eq (Config.wellFormed_entry hw hd) hid (Option.some.inj h).symm

end

/-- Settles O35: the fields are masked, and the flags and DECODE each determine their word. -/
theorem statusBitsOutsideTheFieldsHaveNoEffect : Obligations.StatusBitsOutsideTheFieldsHaveNoEffect := by
  intro s s' d e w w' x x' hw hcfg hd he hr hr' hrx hrx'
  exact ⟨answered_featStat_eq_of_mask_eq hw hcfg hd hr hr', eq_of_answered_limitFlag_eq hw hcfg he hrx hrx',
    eq_of_answered_decode_eq hw hcfg (.inr rfl) hd hr hr', eq_of_answered_decode_eq hw hcfg (.inl rfl) he hrx hrx'⟩

end Sys2Proof.Machine

/-! The statements of 43_catalog_lookups.md: the string lookups (R125, R126, R130, R131), the number lookups (R127 to
R129), and their range test (R132). -/

namespace Sys2Proof

/-- Both strings of every entry of a catalog that meets the bounds of R29 (log 9, log 18). -/
theorem Config.catalogBounded_entry {c : Config} (h : c.catalogBounded = true) {id : Nat} (hid : id < 41) :
    c.metaTable[id].name.length ≤ 23 ∧ c.metaTable[id].unit.length ≤ 7 := by
  have hall := List.all_eq_true.mp h _ (Vector.mem_toList_iff.mpr (Vector.getElem_mem hid))
  simpa only [Bool.and_eq_true, decide_eq_true_eq] using hall

end Sys2Proof

namespace Sys2Proof.Machine

section
variable {s : State} {id : Nat}

/-- A command that only looks an entry up and answers from it, inside the table (R125 to R131). -/
theorem lookup_answer_inside {α : Type} {n : Nat} {table : Vector α n} (hw : s.cfg.wellFormed = true) (hid : id < n)
    (r : α → Response) :
    whenWellFormed s (lookup table id s fun e => answer (r e) s) = .next (respond (r table[id]) s) := by
  rw [whenWellFormed_of hw, lookup_lt hid, answer_eq]

/-- The same command outside the table (R132). -/
theorem lookup_answer_outside {α : Type} {n : Nat} {table : Vector α n} {r : α → Response}
    (hw : s.cfg.wellFormed = true) (hid : n ≤ id) :
    whenWellFormed s (lookup table id s fun e => answer (r e) s) =
      .next (respond (failureResponse .noResult) s) := by
  rw [whenWellFormed_of hw, lookup_ge hid, fail_eq]

/-- `tc_64` of a signed 32-bit number is its sign extension (R11, D20). -/
theorem okInt_toInt (x : BitVec 32) : okInt x.toInt = okData (x.signExtend 64) := rfl

/-- A number of the catalog, inside the table (R127, R128, R129). -/
theorem lookup_number_inside (hw : s.cfg.wellFormed = true) (hid : id < 41) (number : MetaEntry → BitVec 32) :
    whenWellFormed s (lookup s.cfg.metaTable id s fun m => answer (okInt (number m).toInt) s) =
      .next (respond (okData ((number s.cfg.metaTable[id]).signExtend 64)) s) := by
  rw [lookup_answer_inside hw hid fun m => okInt (number m).toInt, okInt_toInt]

/-- With the same registers DECODE answers the same for configurations that differ outside `DESC` (R90, R128, R129). -/
theorem answered_decode_of_desc_eq {s' : State} (hw : s.cfg.wellFormed = true) (hw' : s'.cfg.wellFormed = true)
    (hdesc : s'.cfg.desc = s.cfg.desc) (hfs : s'.fs = s.fs) :
    answered (exec (.decode id) s') = answered (exec (.decode id) s) := by
  cases hd : s.cfg.desc[id]? with
  | none =>
    have hout : NPARAM ≤ id := Vector.getElem?_eq_none_iff.mp hd
    rw [exec_decode_outside hw hout, exec_decode_outside hw' hout]
    rfl
  | some d =>
    obtain ⟨v, -, hr⟩ := memRead2_wellFormed s.fs (Config.wellFormed_entry hw hd)
    rw [answered_decode hw hd hr, answered_decode hw' (hdesc ▸ hd) (hfs ▸ hr)]

end

/-- Settles O38: each of the four looks its string up and answers it with its length. -/
theorem stringLookupsAnswerTheEntry : Obligations.StringLookupsAnswerTheEntry := by
  intro s id hw
  have hrows : [(0x05#8, Instr.pName), (0x06#8, Instr.pUnit), (0x0A#8, Instr.lfName), (0x0B#8, Instr.faultDesc)] ⊆
      formatIRows := by simp [formatIRows]
  refine ⟨fun hid row hrow => decode_encodeFormatI (hrows hrow) hid, fun hid => ⟨?name, ?unit, ?bounds⟩,
    fun hid => ?lfName, fun hid => ?faultDesc,
    fun hout => ⟨lookup_answer_outside hw hout, lookup_answer_outside hw hout⟩,
    lookup_answer_outside hw, lookup_answer_outside hw⟩
  case name => exact lookup_answer_inside hw hid fun m : MetaEntry => okString m.name
  case unit => exact lookup_answer_inside hw hid fun m : MetaEntry => okString m.unit
  case bounds => exact fun hbounded => Config.catalogBounded_entry hbounded hid
  case lfName => exact lookup_answer_inside hw hid okString
  case faultDesc => exact lookup_answer_inside hw hid okString

/-- Settles O39: each of the three answers `tc_64` of its number, which is the sign extension, and of the tables DECODE
looks at `DESC` only. -/
theorem numberLookupsAnswerTheEntrySignExtended : Obligations.NumberLookupsAnswerTheEntrySignExtended := by
  intro s id hw
  have hrows : [(0x07#8, Instr.pDec), (0x08#8, Instr.pMin), (0x09#8, Instr.pMax)] ⊆ formatIRows := by
    simp [formatIRows]
  refine ⟨fun hid row hrow => decode_encodeFormatI (hrows hrow) hid, fun hid => ?inside, fun hout => ?outside,
    fun table => answered_decode_of_desc_eq hw hw rfl rfl⟩
  case inside =>
    exact ⟨lookup_number_inside hw hid MetaEntry.decimals, lookup_number_inside hw hid MetaEntry.min,
      lookup_number_inside hw hid MetaEntry.max⟩
  case outside =>
    exact ⟨lookup_answer_outside hw hout, lookup_answer_outside hw hout, lookup_answer_outside hw hout⟩

end Sys2Proof.Machine

/-! The statements of 60_exceptions.md: a failure is one response and no change (R140), each legal command has one
failure (R141, R145), a failure is not sticky (R147), and the block never acts on its own (R144, R150). -/

namespace Sys2Proof.Machine

/-- Settles O13: with no event waiting the step is `idle`, which answers the same state (log 6). -/
theorem stepWithoutEventKeepsTheState : Obligations.StepWithoutEventKeepsTheState :=
  fun _ hw hs => (step_noEvent hs).trans (idle_wellFormed hw)

section
variable {s t : State} {r : Response}

/-- The response of a legal command is OK, or it is the command's one failure and nothing but the response is new
(R140, R145). -/
theorem exec_next_response {i : Instr} (h : exec i s = .next t) (hr : t.responses = r :: s.responses) :
    r.status = .ok ∨ (r = failureResponse (failStatus i) ∧ t = respond r s) := by
  obtain ⟨r', rfl, hcase⟩ | ⟨f, -, -, rfl⟩ := exec_next_cases h
  · obtain rfl : r' = r := List.head_eq_of_cons_eq hr
    exact hcase.imp_right fun hfail => ⟨hfail, rfl⟩
  · obtain rfl : okData 0#64 = r := List.head_eq_of_cons_eq hr
    exact .inl rfl

/-- A command word that fails, legal or not, is answered with DATA zero and no string, and nothing but the response is
new once the word is taken (R67, R140). -/
theorem step_issue_command_failure {w : CmdWord} (h : step (issue (.command w) s) = .next t)
    (hr : t.responses = r :: s.responses) (hfail : r.status ≠ .ok) :
    r = failureResponse r.status ∧ t = respond r s := by
  cases hd : decode w with
  | error why =>
    obtain ⟨-, hrun⟩ := whenWellFormed_next.mp ((step_illegalWord hd s).symm.trans h)
    obtain rfl := Host.Outcome.next.inj hrun
    obtain rfl : failureResponse .illegal = r := List.head_eq_of_cons_eq hr
    exact ⟨rfl, rfl⟩
  | ok i =>
    obtain ⟨rfl, ht⟩ := (exec_next_response ((step_command hd s).symm.trans h) hr).resolve_left hfail
    exact ⟨rfl, ht⟩

/-- One more response given earlier changes neither the response of a command nor the registers it leaves (R36). -/
theorem exec_respond (j : Instr) (r : Response) (hw : s.cfg.wellFormed = true) :
    answered (exec j (respond r s)) = answered (exec j s) ∧
      (nextState? (exec j (respond r s))).map State.fs = (nextState? (exec j s)).map State.fs := by
  obtain ⟨r', fs, hexec⟩ := commandDependsOnConfigurationAndRegistersOnly j s hw
  have hwith : exec j (respond r s) = _ := hexec s.host (r :: s.responses)
  have hwithout : exec j s = _ := hexec s.host s.responses
  rw [hwith, hwithout]
  exact ⟨rfl, rfl⟩

end

/-- Settles O44: the word is taken, and what a failed command word leaves is the state with the failure answered. -/
theorem failureHasZeroDataAndChangesNothing : Obligations.FailureHasZeroDataAndChangesNothing := by
  intro s t w rest r hs h hr hfail
  rw [eq_issue hs] at h
  obtain ⟨hzero, rfl⟩ := step_issue_command_failure h hr hfail
  exact ⟨hzero, rfl, rfl, rfl⟩

/-- Settles O45: the command's one failure is REJECT for INGEST and NORESULT for the other ten. -/
theorem eachCommandHasOneFailureStatus : Obligations.EachCommandHasOneFailureStatus := by
  intro i s t r h hr
  obtain hok | ⟨rfl, -⟩ := exec_next_response h hr
  · exact .inl hok
  · exact .inr (by cases i <;> rfl)

/-- Settles O46: a failed command leaves one more response, which no later command reads. -/
theorem failedCommandIsInvisibleToTheNext : Obligations.FailedCommandIsInvisibleToTheNext := by
  intro i j s t r h hr hfail
  obtain ⟨-, rfl⟩ := (exec_next_response h hr).resolve_left hfail
  exact exec_respond j r (exec_next_wellFormed h)

end Sys2Proof.Machine

/-! The statements of 70_reset_and_hazards.md: no command clears a slot above 0, and reset zeroes every slot (R160,
R161). -/

namespace Sys2Proof.Machine

@[simp] theorem sidOf_zero : sidOf 0#64 = 0 := rfl

/-- What a command leaves in a slot was there before it, or is a frame that names that slot (R22, R80). -/
theorem exec_next_slot {i : Instr} {s t : State} {slot : Nat} {w : Frame} (h : exec i s = .next t)
    (hslot : t.fs[slot]? = some w) : s.fs[slot]? = some w ∨ sidOf w = slot := by
  obtain ⟨r, rfl, -⟩ | ⟨f, -, hm, rfl⟩ := exec_next_cases h
  · exact .inl hslot
  · rw [respond_fs, setFs_fs] at hslot
    by_cases hsame : slot = sidOf f
    · subst hsame
      obtain ⟨hsid, -⟩ := (malformed_eq_false_iff f).mp hm
      obtain rfl := Option.some.inj ((writeSlot_same s.fs f hsid).symm.trans hslot)
      exact .inr rfl
    · exact .inl ((writeSlot_other s.fs f hsame).symm.trans hslot)

/-- Settles O21: the slot holds what it held, or a frame that names it, and the zero frame names slot 0. -/
theorem noCommandClearsASlotAboveZero : Obligations.NoCommandClearsASlotAboveZero := by
  constructor
  · rintro s t i slot v w h hpos hv hne hslot rfl
    obtain hkept | hnamed := exec_next_slot h hslot
    · exact hne (Option.some.inj (hv.symm.trans hkept))
    · rw [sidOf_zero] at hnamed
      omega
  · intro s hw
    exact ⟨_, exec_ingest_accepted hw rfl, writeSlot_same s.fs 0#64 (by decide)⟩

/-- Settles O12: a state with reset waiting is one in which the host issued reset, which replaces the registers. -/
theorem resetEventZeroesEverySlot : Obligations.ResetEventZeroesEverySlot := by
  intro s rest hw hs
  rw [eq_issue hs, step_resetEvent]
  exact ⟨_, resetBlock_wellFormed hw, fun slot => Vector.getElem_replicate slot.isLt, rfl, rfl, rfl⟩

end Sys2Proof.Machine
